-- ==== Sys2Proof/Word.lean ====
section
/-! DEFINITION. The data types of the CORE: bytes, 16-byte blocks, register offsets, transaction words
(spec/00_scope.md R10, spec/30_encoding.md R44). -/

namespace Sys2Proof

/-- An unsigned 8-bit number, bit 0 the least significant (R10). -/
abbrev Byte := BitVec 8

/-- A sequence of exactly 16 bytes indexed 0 to 15; byte 0 is the first (R10). -/
abbrev Block := Vector Byte 16

/-- A 7-bit register offset, 0x00 to 0x7F (R9, R45). -/
abbrev Offset := BitVec 7

/-- A transaction word of format T16 (R44). -/
abbrev T16 := BitVec 16

/-- The 16-bit unsigned quantities of the CORE: the data length and the block index (R9). -/
abbrev Word16 := BitVec 16

/-- The block of sixteen 0x00 bytes, written `0^16` (R11). -/
abbrev zeroBlock : Block := Vector.replicate 16 0

/-- A single-block encryption: first argument the key, second the input block (R8). -/
abbrev Cipher := Block → Block → Block

end Sys2Proof
end

