-- ==== Sys2Proof/Machine/State.lean ====
section
/-! DEFINITION. The state of the machine: the CORE's registers (spec/10_state.md R13, exactly its fields) and the
host's side of the port; the reasons a step can stop; the state after reset (R29, R132). -/

namespace Sys2Proof.Machine

/-- The six 16-byte registers of the window (R33). -/
inductive Reg16 where
  | key | nonce | din | dout | ctr | acc
deriving DecidableEq, Repr

/-- The locations of the register window (R33): the operand forms of a transaction. -/
inductive Loc where
  /-- Byte `i` of a 16-byte register. -/
  | byte (r : Reg16) (i : Fin 16)
  | lenHi | lenLo | cmd | status | errcode | errcmd
  /-- One of the 26 offsets 0x66 to 0x7F (R35). -/
  | reserved
deriving DecidableEq, Repr

/-- The five synchronous error causes (R115, R117). -/
inductive Cause where
  | illcmd | nokey | noctr | noacc | ctrwrap
deriving DecidableEq, Repr

/-- "A model of the CORE is a record with exactly these fields" (R13). `KEYV` is not a field: it is 1 exactly when
`k` is `some`. -/
structure CoreState where
  /-- `KEY`: staging bytes of the next key to load. -/
  key : Block
  /-- `NONCE`: the nonce of the current invocation. -/
  nonce : Block
  /-- `DIN`: the input block or 16-byte value of the next command. -/
  din : Block
  /-- `DOUT`: the output block of the last CTRNEXT or OFFSET. -/
  dout : Block
  /-- `LEN`: the data length in bytes used by HASHINIT. -/
  len : Word16
  /-- `CTR`: the keystream generator's current counter block. -/
  ctr : Block
  /-- `ACC`: the hash accumulator's state. -/
  acc : Block
  /-- `K`: the collaborator's active key; `none` until a SETKEY (the spec's own option, R26). -/
  k : Option Block
  /-- `CTRV`: CTR was initialised under the active key. -/
  ctrv : Bool
  /-- `ACCV`: ACC was initialised under the active key. -/
  accv : Bool
  /-- `ERR`: the error latch is set. -/
  err : Bool
  /-- `ERRCODE`: cause of the latched error. -/
  errcode : Byte
  /-- `ERRCMD`: the command byte that caused the latched error. -/
  errcmd : Byte
deriving DecidableEq, Repr

/-- What a byte-wide platform access does. -/
inductive AccessKind where
  | read
  | write (d : Byte)
deriving DecidableEq, Repr

/-- What the outside world can do to the CORE next. -/
inductive HostEvent where
  /-- A transaction written as a T16 word (R44). -/
  | word (w : T16)
  /-- An access of the platform's bus at a platform address, `bytes` wide (R33, R38, R83). -/
  | access (addr bytes : Nat) (kind : AccessKind)
  /-- The platform's reset input (R132); it arrives between transactions only. -/
  | reset
deriving DecidableEq, Repr

/-- The machine: the CORE and the host's side of its port. -/
structure State where
  /-- The complete state of the CORE instance (R13). -/
  core : CoreState
  /-- The MODEL's own field: the host's events in the order they arrive (R40), the next one first.
  DESIGN CHOICE (log 1); safe for claims about every list. -/
  pending : List HostEvent
  /-- The MODEL's own field: the bytes the host's reads returned, oldest first (R84's result `v`).
  DESIGN CHOICE (log 2); safe. -/
  reads : List Byte
deriving DecidableEq, Repr

/-- The reasons to fault: there is none. "No access to the window ever fails: there is no bus error" (R34), and an
error of a command is latched in the state, no stop (R115, R116). DEDUCED (log 11); unsafe if the hardware had a
bus error. -/
inductive Fault
deriving DecidableEq, Repr

/-- The accesses and instructions without a meaning. -/
inductive Refusal where
  /-- Raised by an arm of `exec` whose instruction has no meaning yet; safe. No arm raises it. -/
  | notModelled (mnemonic : String)
  /-- Raised for a platform access that is not one byte wide: "this spec gives a wider access no meaning and a model
  refuses it" (R38, D28); safe. -/
  | wideAccess
  /-- Raised for a platform address outside BASE + 0x00 to BASE + 0x7F: "a model of the CORE gives such an access no
  meaning" (R35); safe. -/
  | outsideWindow
deriving DecidableEq, Repr

/-- Every field of R13 at the value of R29. -/
def CoreState.reset : CoreState where
  key := zeroBlock
  nonce := zeroBlock
  din := zeroBlock
  dout := zeroBlock
  len := 0
  ctr := zeroBlock
  acc := zeroBlock
  k := none
  ctrv := false
  accv := false
  err := false
  errcode := 0x00
  errcmd := 0x00

/-- The machine right after reset: the CORE as R29 says; nothing is pending and nothing was read (the model's own
fields: DESIGN CHOICE, log 14; unsafe to rest a claim about the host on). -/
def State.reset : State where
  core := CoreState.reset
  pending := []
  reads := []

end Sys2Proof.Machine
end

