-- ==== Sys2Proof/Machine/Flags.lean ====
section
/-! DEFINITION. The flags as the host reads them (spec/10_state.md R17, R18). -/

namespace Sys2Proof.Machine

/-- `KEYV`: 1 exactly when `K` is `some` (R13). -/
def CoreState.keyv (m : CoreState) : Bool := m.k.isSome

/-- A flag as a number. -/
def bit : Bool → Byte
  | false => 0
  | true => 1

/-- `STATUS` as read: KEYV + 2*CTRV + 4*ACCV + 128*ERR; bits 3 to 6 are 0 (R18, R84). -/
def CoreState.status (m : CoreState) : Byte :=
  bit m.keyv + 2 * bit m.ctrv + 4 * bit m.accv + 128 * bit m.err

end Sys2Proof.Machine
end

