-- ==== Sys2Proof/Machine/Operands.lean ====
section
/-! DEFINITION. Operand forms (the locations of the register window, spec/20_memory.md R33), the byte-order helpers
and block operators (spec/00_scope.md R11), and the counter-block functions (spec/40_counter_derivation.md). -/

namespace Sys2Proof.Machine

/-! ### Bytes, 16-bit numbers, blocks (R11) -/

/-- The high byte of a 16-bit number. -/
def hi8 (n : Word16) : Byte := n.extractLsb' 8 8

/-- The low byte of a 16-bit number. -/
def lo8 (n : Word16) : Byte := n.extractLsb' 0 8

/-- `256*h + l`. -/
def be16 (h l : Byte) : Word16 := h ++ l

/-- Exclusive OR of two blocks, byte by byte. -/
def blockXor (a b : Block) : Block := Vector.ofFn fun j => a[j] ^^^ b[j]

/-! ### Counter blocks -/

/-- Mode tag of a keystream counter block (R50). -/
abbrev tagKeystream : Byte := 0x01

/-- Mode tag of a hash counter block: 57 decimal (R51, D21). -/
abbrev tagHash : Byte := 0x39

/-- Layouts CB-K and CB-H: a mode tag, nonce bytes 0 to 12, and a 16-bit number, high byte first (R50, R51). -/
def counterBlock (tag : Byte) (nonce : Block) (n : Word16) : Block :=
  #v[tag, nonce[0], nonce[1], nonce[2], nonce[3], nonce[4], nonce[5], nonce[6], nonce[7], nonce[8], nonce[9],
    nonce[10], nonce[11], nonce[12], hi8 n, lo8 n]

/-- `ctr0(N)`, the starting counter: `counter_for_keystream` (R58). -/
def ctr0 (nonce : Block) : Block := counterBlock tagKeystream nonce 0

/-- `ctrh(N, L)`, the hash counter block: `counter_for_hash` (R59). -/
def ctrh (nonce : Block) (len : Word16) : Block := counterBlock tagHash nonce len

/-- `ctrk(N, i)`, the keystream counter block at index `i` (R63). -/
def ctrk (nonce : Block) (i : Word16) : Block := counterBlock tagKeystream nonce i

/-- `inc(c)`: big-endian increment confined to bytes 14 and 15 (R61); no value where both are 0xFF (R62). -/
def inc (b : Block) : Option Block :=
  if b[15] ≠ 0xFF then some (b.set 15 (b[15] + 1))
  else if b[14] ≠ 0xFF then some ((b.set 15 0x00).set 14 (b[14] + 1))
  else none

/-! ### Locations -/

/-- The first offset of a 16-byte register (R33). -/
def Reg16.first : Reg16 → Nat
  | .key => 0x00
  | .nonce => 0x10
  | .din => 0x20
  | .dout => 0x30
  | .ctr => 0x40
  | .acc => 0x50

/-- The location at an offset (R33). -/
def locate (off : Offset) : Loc :=
  let n := off.toNat
  if n ≤ 0x0F then .byte .key (Fin.ofNat 16 n)
  else if n ≤ 0x1F then .byte .nonce (Fin.ofNat 16 (n - 0x10))
  else if n ≤ 0x2F then .byte .din (Fin.ofNat 16 (n - 0x20))
  else if n ≤ 0x3F then .byte .dout (Fin.ofNat 16 (n - 0x30))
  else if n ≤ 0x4F then .byte .ctr (Fin.ofNat 16 (n - 0x40))
  else if n ≤ 0x5F then .byte .acc (Fin.ofNat 16 (n - 0x50))
  else if n = 0x60 then .lenHi
  else if n = 0x61 then .lenLo
  else if n = 0x62 then .cmd
  else if n = 0x63 then .status
  else if n = 0x64 then .errcode
  else if n = 0x65 then .errcmd
  else .reserved

/-- The offset of byte `i` of a 16-byte register: its first offset plus `i` (R33, R36). -/
def offOf (r : Reg16) (i : Fin 16) : Offset := BitVec.ofNat 7 (r.first + i.val)

end Sys2Proof.Machine
end

