-- ==== Sys2Proof/Machine/Ops.lean ====
section
/-! DEFINITION. The shared operations: reading the window (spec/44_key_and_control.md R84), the error latch
(spec/60_exceptions.md R116, R125), the cipher collaborator (R86, R87), reset (spec/70_reset_and_hazards.md R132). -/

namespace Sys2Proof.Machine

/-- The byte at a location as the host reads it. KEY and CMD are write only and read 0x00, so do the reserved
offsets (R34, R35, R84). -/
def readLoc (m : CoreState) : Loc → Byte
  | .byte .key _ => 0x00
  | .byte .nonce i => m.nonce[i]
  | .byte .din i => m.din[i]
  | .byte .dout i => m.dout[i]
  | .byte .ctr i => m.ctr[i]
  | .byte .acc i => m.acc[i]
  | .lenHi => hi8 m.len
  | .lenLo => lo8 m.len
  | .cmd => 0x00
  | .status => m.status
  | .errcode => m.errcode
  | .errcmd => m.errcmd
  | .reserved => 0x00

/-- `MemRead(off, 1)` (R84). -/
def memRead (off : Offset) (m : CoreState) : Byte := readLoc m (locate off)

/-- The stored part of `MemWrite(off, 1, d)` (R83): KEY, NONCE, DIN and LEN are written; DOUT, CTR, ACC, STATUS,
ERRCODE, ERRCMD and the reserved offsets ignore the write (R34, R35); CMD has no storage (R19). -/
def storeLoc (d : Byte) (m : CoreState) : Loc → CoreState
  | .byte .key i => { m with key := m.key.set i d }
  | .byte .nonce i => { m with nonce := m.nonce.set i d }
  | .byte .din i => { m with din := m.din.set i d }
  | .byte .dout _ => m
  | .byte .ctr _ => m
  | .byte .acc _ => m
  | .lenHi => { m with len := be16 d (lo8 m.len) }
  | .lenLo => { m with len := be16 (hi8 m.len) d }
  | .cmd => m
  | .status => m
  | .errcode => m
  | .errcmd => m
  | .reserved => m

/-- The cause codes (R117). -/
def Cause.code : Cause → Byte
  | .illcmd => 0x01
  | .nokey => 0x02
  | .noctr => 0x03
  | .noacc => 0x04
  | .ctrwrap => 0x05

/-- `raise Err(code)` by command byte `c`: the error latch is set and no other field changes (R116). -/
def raise (e : Cause) (c : Byte) (m : CoreState) : CoreState :=
  { m with err := true, errcode := e.code, errcmd := c }

/-- The return from an error: the latch is cleared and nothing else is restored, because nothing else was changed
(R125). -/
def clearLatch (m : CoreState) : CoreState :=
  { m with err := false, errcode := 0x00, errcmd := 0x00 }

/-- The collaborator's `set_key`: replaces the active key (R86). -/
def setKey (key : Block) (m : CoreState) : CoreState := { m with k := some key }

/-- The collaborator's `encrypt_block` under the active key `key`: a pure function with no error outcome (R87). -/
def encryptBlock (E : Cipher) (key b : Block) : Block := E key b

/-- Reset: every field of R13 at its value of R29, whatever it held (R132, R133). -/
def resetCore (_ : CoreState) : CoreState := CoreState.reset

/-- Apply an operation of the CORE; the host's side of the port is not the CORE's to change. -/
def State.onCore (f : CoreState → CoreState) (s : State) : State := { s with core := f s.core }

/-- The host binds the byte a read returned (R45, R84). -/
def State.bindRead (v : Byte) (s : State) : State := { s with reads := s.reads ++ [v] }

end Sys2Proof.Machine
end

