-- ==== Sys2Proof/Machine/Control.lean ====
section
/-! DEFINITION. The control commands: SETKEY, CLRERR, SRESET (spec/44_key_and_control.md R88 to R90). -/

namespace Sys2Proof.Machine

/-- `SETKEY`: the staged key becomes the active key, the staging bytes are wiped, CTRV and ACCV become 0 (R88). -/
def cmdSetkey (m : CoreState) : CoreState :=
  if m.err then m
  else { setKey m.key m with key := zeroBlock, ctrv := false, accv := false }

/-- The meaning of SETKEY. -/
def execSetkey (s : State) : Host.Outcome State Fault Refusal := .next (s.onCore cmdSetkey)

/-- `CLRERR`: clears the error latch whether ERR is 0 or 1; nothing else changes (R89). -/
def cmdClrerr (m : CoreState) : CoreState := clearLatch m

/-- The meaning of CLRERR. -/
def execClrerr (s : State) : Host.Outcome State Fault Refusal := .next (s.onCore cmdClrerr)

/-- `SRESET`: every field at its reset value, whether ERR is 0 or 1 (R90, R133). -/
def cmdSreset (m : CoreState) : CoreState := resetCore m

/-- The meaning of SRESET. -/
def execSreset (s : State) : Host.Outcome State Fault Refusal := .next (s.onCore cmdSreset)

end Sys2Proof.Machine
end

