-- ==== Sys2Proof/Machine/Counter.lean ====
section
/-! DEFINITION. The counter expander: CTRINIT (spec/40_counter_derivation.md R65). -/

namespace Sys2Proof.Machine

/-- `CTRINIT`: CTR takes the starting counter of NONCE, CTRV becomes 1; no key is needed (R65). -/
def cmdCtrinit (m : CoreState) : CoreState :=
  if m.err then m
  else { m with ctr := ctr0 m.nonce, ctrv := true }

/-- The meaning of CTRINIT. -/
def execCtrinit (s : State) : Host.Outcome State Fault Refusal := .next (s.onCore cmdCtrinit)

end Sys2Proof.Machine
end

