-- ==== Sys2Proof/Config.lean ====
section
/-! DEFINITION. The two parameters the spec leaves open (spec/00_scope.md R8): the cipher `E` and the window
address `BASE`. Both are opaque: no proof can learn a value of either. -/

namespace Sys2Proof

/-- `E : Block → Block → Block`, the collaborator's single-block encryption: total and deterministic, nothing
else is assumed of it, not even that it is a permutation (R8, R87, U14). DESIGN CHOICE (log 3): an opaque constant
stands for the spec's parameter; safe. -/
opaque Config.cipher : Cipher

/-- `BASE`, the platform address at which the 128-byte register window starts; no rule depends on its value
(R8, R33). DESIGN CHOICE (log 4): an opaque natural number; safe. -/
opaque Config.base : Nat

end Sys2Proof
end

