-- ==== Sys2Proof/Syntax.lean ====
section
/-! DEFINITION. The instructions of the CORE: the two transaction kinds and the eight commands, one constructor
per row of spec/opcode_table.json (spec/30_encoding.md R47). -/

namespace Sys2Proof

/-- What one T16 word makes the CORE do. -/
inductive Instr where
  /-- `WR off, data`: write a byte to a register offset (R83). -/
  | wr (off : Offset) (data : Byte)
  /-- `RD off -> v`: read the byte at a register offset (R84). -/
  | rd (off : Offset)
  /-- `SETKEY`, load the staged key into the cipher (R88). -/
  | setkey
  /-- `CTRINIT`, start a keystream counter (R65). -/
  | ctrinit
  /-- `CTRNEXT`, one keystream block (R71). -/
  | ctrnext
  /-- `HASHINIT`, start a keyed hash (R76). -/
  | hashinit
  /-- `HASHUPD`, absorb one block (R77). -/
  | hashupd
  /-- `OFFSET`, mask one block with the index-0 pad (R82). -/
  | offset
  /-- `CLRERR`, clear the error latch (R89). -/
  | clrerr
  /-- `SRESET`, software reset (R90). -/
  | sreset
deriving DecidableEq, Repr

end Sys2Proof
end

