-- ==== Sys2Proof/WellFormed.lean ====
section
/-! DEFINITION. Which terms of `Instr` stand for a word of their own. -/

namespace Sys2Proof

/-- A write to CMD (offset 0x62) of one of the opcodes 0x01 to 0x08 is a command and has a constructor of its own
(R46, R47), so the plain `wr` term for that word is ill-formed. Every other term is well-formed: all offsets and
all bytes are legal (R45, R49). DESIGN CHOICE (log 6): one term for each word's meaning; safe. -/
def Instr.wellFormed : Instr → Bool
  | .wr off data => !(off == 0x62 && decide (1 ≤ data.toNat) && decide (data.toNat ≤ 8))
  | .rd _ => true
  | .setkey => true
  | .ctrinit => true
  | .ctrnext => true
  | .hashinit => true
  | .hashupd => true
  | .offset => true
  | .clrerr => true
  | .sreset => true

end Sys2Proof
end

