-- ==== Sys2Proof/Decode.lean ====
section
/-! DEFINITION. Decoding and encoding of T16 transaction words and CMD8 command bytes (spec/30_encoding.md R44 to
R49, R53). -/

namespace Sys2Proof

/-! ### The opcode map (R47) -/

/-- The offset of the command register CMD (R19, R46). -/
abbrev cmdOffset : Offset := 0x62
abbrev opSetkey : Byte := 0x01
abbrev opCtrinit : Byte := 0x02
abbrev opCtrnext : Byte := 0x03
abbrev opHashinit : Byte := 0x04
abbrev opHashupd : Byte := 0x05
abbrev opOffset : Byte := 0x06
abbrev opClrerr : Byte := 0x07
abbrev opSreset : Byte := 0x08

/-- The command byte of a command; a plain transaction has none (R46, R47). -/
def opcodeOf : Instr → Option Byte
  | .wr _ _ => none
  | .rd _ => none
  | .setkey => some opSetkey
  | .ctrinit => some opCtrinit
  | .ctrnext => some opCtrnext
  | .hashinit => some opHashinit
  | .hashupd => some opHashupd
  | .offset => some opOffset
  | .clrerr => some opClrerr
  | .sreset => some opSreset

/-- Why bits are no command, or no word. -/
inductive DecodeError where
  /-- A byte that is no opcode of the map: 0x00 and 0x09 to 0xFF (R48). Raised by `decodeCommand`. Safe: as a write to
  CMD the byte still runs and latches ILLCMD. -/
  | illegalCommand (c : Byte)
  /-- A width the table gives no row: neither a CMD8 byte nor a T16 word (R44, R46). Raised by `tableWord`. Safe: no
  word of the hardware has another width. -/
  | noSuchWidth (nbits : Nat)
deriving DecidableEq, Repr

/-! ### Fields of a T16 word (R44, R45) -/

/-- Bit 15, `w`: true for a write. -/
def isWriteWord (w : T16) : Bool := w.getLsbD 15

/-- Bits 14 to 8, `off`, an unsigned 7-bit number. -/
def offField (w : T16) : Offset := w.extractLsb' 8 7

/-- Bits 7 to 0, `data`, an unsigned byte. -/
def dataField (w : T16) : Byte := w.extractLsb' 0 8

/-- The T16 word with the given fields (R44): `0x8000 * w + 256 * off + data`. -/
def packWord (isWrite : Bool) (off : Offset) (data : Byte) : T16 :=
  (BitVec.ofBool isWrite ++ off) ++ data

/-! ### Decoding -/

/-- The command of a CMD8 byte; all eight bits are the opcode (R46, R47). The 248 other bytes are rejected by
name (R48). -/
def decodeCommand (c : Byte) : Except DecodeError Instr :=
  if c = opSetkey then .ok .setkey
  else if c = opCtrinit then .ok .ctrinit
  else if c = opCtrnext then .ok .ctrnext
  else if c = opHashinit then .ok .hashinit
  else if c = opHashupd then .ok .hashupd
  else if c = opOffset then .ok .offset
  else if c = opClrerr then .ok .clrerr
  else if c = opSreset then .ok .sreset
  else .error (.illegalCommand c)

/-- The instruction of a write: a legal command byte written to CMD is the command, every other write is `wr`
(R46; a write of an illegal byte to CMD stays a `wr`, which latches ILLCMD: log 6). -/
def decodeWrite (off : Offset) (data : Byte) : Instr :=
  if off = cmdOffset then
    match decodeCommand data with
    | .ok i => i
    | .error _ => .wr off data
  else .wr off data

/-- The instruction of a T16 word. All 65536 words decode; the data bits of a read are ignored (R49). -/
def decode (w : T16) : Instr :=
  if isWriteWord w then decodeWrite (offField w) (dataField w) else .rd (offField w)

/-- The word of bits numbered as spec/opcode_table.json numbers them. A row of format T16 has 16 bits and is the
word. A row of format CMD8 has 8 bits, which are the command byte alone: its word is 0xE200 + opcode (R46). DEDUCED
(log 5); safe. Any other width is rejected by name. -/
def tableWord (nbits w : Nat) : Except DecodeError T16 :=
  if nbits = 8 then .ok (packWord true cmdOffset (BitVec.ofNat 8 w))
  else if nbits = 16 then .ok (BitVec.ofNat 16 w)
  else .error (.noSuchWidth nbits)

/-- The instruction the decoder reads from `nbits` table bits `w`. -/
def decodeTableWord (nbits w : Nat) : Option Instr :=
  match tableWord nbits w with
  | .ok t => some (decode t)
  | .error _ => none

/-! ### Encoding -/

/-- The canonical word of an instruction (R53): a read has its data bits 0 (R49), a command is 0xE200 + opcode
(R46). -/
def encode : Instr → T16
  | .wr off data => packWord true off data
  | .rd off => packWord false off 0x00
  | .setkey => packWord true cmdOffset opSetkey
  | .ctrinit => packWord true cmdOffset opCtrinit
  | .ctrnext => packWord true cmdOffset opCtrnext
  | .hashinit => packWord true cmdOffset opHashinit
  | .hashupd => packWord true cmdOffset opHashupd
  | .offset => packWord true cmdOffset opOffset
  | .clrerr => packWord true cmdOffset opClrerr
  | .sreset => packWord true cmdOffset opSreset

end Sys2Proof
end

