-- ==== Sys2Proof/Machine/Hash.lean ====
section
/-! DEFINITION. The keyed hash accumulator: HASHINIT and HASHUPD (spec/42_keyed_hash.md R76, R77). -/

namespace Sys2Proof.Machine

/-- `HASHINIT`: ACC takes the encrypted hash counter block of NONCE and LEN, ACCV becomes 1. Error NOKEY (R76). -/
def cmdHashinit (E : Cipher) (m : CoreState) : CoreState :=
  if m.err then m
  else
    match m.k with
    | none => raise .nokey opHashinit m
    | some key => { m with acc := encryptBlock E key (ctrh m.nonce m.len), accv := true }

/-- The meaning of HASHINIT. -/
def execHashinit (s : State) : Host.Outcome State Fault Refusal :=
  .next (s.onCore (cmdHashinit Config.cipher))

/-- `HASHUPD`: ACC takes the encryption of ACC xor DIN. Errors NOKEY, NOACC, in that order (R77). -/
def cmdHashupd (E : Cipher) (m : CoreState) : CoreState :=
  if m.err then m
  else
    match m.k with
    | none => raise .nokey opHashupd m
    | some key =>
      if m.accv = false then raise .noacc opHashupd m
      else { m with acc := encryptBlock E key (blockXor m.acc m.din) }

/-- The meaning of HASHUPD. -/
def execHashupd (s : State) : Host.Outcome State Fault Refusal :=
  .next (s.onCore (cmdHashupd Config.cipher))

end Sys2Proof.Machine
end

