-- ==== Sys2Proof/Machine/Keystream.lean ====
section
/-! DEFINITION. The keystream generator: CTRNEXT (spec/41_ctr_keystream.md R71). -/

namespace Sys2Proof.Machine

/-- `CTRNEXT`: increment CTR, encrypt the new CTR, xor with DIN into DOUT. Errors NOKEY, NOCTR, CTRWRAP, in that
order (R71, R119, R120, R122). -/
def cmdCtrnext (E : Cipher) (m : CoreState) : CoreState :=
  if m.err then m
  else
    match m.k with
    | none => raise .nokey opCtrnext m
    | some key =>
      if m.ctrv = false then raise .noctr opCtrnext m
      else
        match inc m.ctr with
        | none => raise .ctrwrap opCtrnext m
        | some c => { m with ctr := c, dout := blockXor (encryptBlock E key c) m.din }

/-- The meaning of CTRNEXT. -/
def execCtrnext (s : State) : Host.Outcome State Fault Refusal :=
  .next (s.onCore (cmdCtrnext Config.cipher))

end Sys2Proof.Machine
end

