-- ==== Sys2Proof/Machine/Mask.lean ====
section
/-! DEFINITION. The offset masking unit: OFFSET (spec/43_offset_mask.md R82). -/

namespace Sys2Proof.Machine

/-- `OFFSET`: DOUT takes the encrypted starting counter of NONCE xor DIN; CTR and CTRV are neither read nor
written. Error NOKEY (R82). -/
def cmdMask (E : Cipher) (m : CoreState) : CoreState :=
  if m.err then m
  else
    match m.k with
    | none => raise .nokey opOffset m
    | some key => { m with dout := blockXor (encryptBlock E key (ctr0 m.nonce)) m.din }

/-- The meaning of OFFSET. -/
def execOffset (s : State) : Host.Outcome State Fault Refusal :=
  .next (s.onCore (cmdMask Config.cipher))

end Sys2Proof.Machine
end

