-- ==== Sys2Proof/Machine/Transactions.lean ====
section
/-! DEFINITION. Command dispatch by byte (spec/44_key_and_control.md R85) and the host's two transactions, WR and RD
(R83, R84). -/

namespace Sys2Proof.Machine

/-- Executing command byte `c`, the effect of `WR CMD, c`: the checks in the order of R85, the first that applies
decides. SRESET and CLRERR run even when ERR = 1; a locked CORE ignores everything else (R124); a byte that is no
opcode latches ILLCMD (R118). -/
def runCommand (E : Cipher) (c : Byte) (m : CoreState) : CoreState :=
  if c = opSreset then cmdSreset m
  else if c = opClrerr then cmdClrerr m
  else if m.err then m
  else if c = opSetkey then cmdSetkey m
  else if c = opCtrinit then cmdCtrinit m
  else if c = opCtrnext then cmdCtrnext E m
  else if c = opHashinit then cmdHashinit E m
  else if c = opHashupd then cmdHashupd E m
  else if c = opOffset then cmdMask E m
  else raise .illcmd c m

/-- `MemWrite(off, 1, d)`: a write to CMD executes the command, any other write stores or is ignored (R83). -/
def memWrite (E : Cipher) (off : Offset) (d : Byte) (m : CoreState) : CoreState :=
  match locate off with
  | .cmd => runCommand E d m
  | l => storeLoc d m l

/-- The meaning of WR. -/
def execWr (off : Offset) (d : Byte) (s : State) : Host.Outcome State Fault Refusal :=
  .next (s.onCore (memWrite Config.cipher off d))

/-- The meaning of RD: the host gets one byte, the CORE does not change (R84). -/
def execRd (off : Offset) (s : State) : Host.Outcome State Fault Refusal :=
  .next (s.bindRead (memRead off s.core))

end Sys2Proof.Machine
end

