-- ==== Sys2Proof/Machine/Dispatch.lean ====
section
/-! DEFINITION. One arm per instruction, each a direct call of its meaning. -/

namespace Sys2Proof.Machine

def exec (i : Instr) (s : State) : Host.Outcome State Fault Refusal :=
  match i with
  | .wr off data => Sys2Proof.Machine.execWr off data s
  | .rd off => Sys2Proof.Machine.execRd off s
  | .setkey => Sys2Proof.Machine.execSetkey s
  | .ctrinit => Sys2Proof.Machine.execCtrinit s
  | .ctrnext => Sys2Proof.Machine.execCtrnext s
  | .hashinit => Sys2Proof.Machine.execHashinit s
  | .hashupd => Sys2Proof.Machine.execHashupd s
  | .offset => Sys2Proof.Machine.execOffset s
  | .clrerr => Sys2Proof.Machine.execClrerr s
  | .sreset => Sys2Proof.Machine.execSreset s

end Sys2Proof.Machine
end

