-- ==== Sys2Proof/Machine/Port.lean ====
section
/-! DEFINITION. The port: taking the host's next event, and turning a platform access into a transaction word
(spec/20_memory.md R33, R35, R38, R40). -/

namespace Sys2Proof.Machine

/-- The next event and the state without it: transactions are performed one at a time, in the order the host issues
them (R40). `none` when the host has nothing pending. -/
def takeEvent (s : State) : Option (HostEvent × State) :=
  match s.pending with
  | [] => none
  | e :: rest => some (e, { s with pending := rest })

/-- The host delivers an event next, before those already pending. -/
def State.deliver (e : HostEvent) (s : State) : State := { s with pending := e :: s.pending }

/-- The transaction of a platform access: the effective address is BASE + off (R83). An access wider (or narrower)
than one byte is refused (R38), and so is an address outside the window (R35). -/
def accessWord (addr bytes : Nat) (kind : AccessKind) : Except Refusal T16 :=
  if bytes ≠ 1 then .error .wideAccess
  else if addr < Config.base ∨ Config.base + 0x7F < addr then .error .outsideWindow
  else
    match kind with
    | .read => .ok (packWord false (BitVec.ofNat 7 (addr - Config.base)) 0x00)
    | .write d => .ok (packWord true (BitVec.ofNat 7 (addr - Config.base)) d)

/-- The platform's reset input acts on the CORE alone (R132; log 15). -/
def platformReset (s : State) : State := s.onCore resetCore

end Sys2Proof.Machine
end

