-- ==== Sys2Proof/Machine/Step.lean ====
section
/-! DEFINITION. One step: the CORE performs the host's next event, whole (spec/20_memory.md R40); with nothing
pending it is idle (spec/60_exceptions.md R130). -/

namespace Sys2Proof.Machine

/-- One step of the machine. An idle CORE stays as it is (R130; DEDUCED, log 8; safe). -/
def step (s : State) : Host.Outcome State Fault Refusal :=
  match takeEvent s with
  | none => .next s
  | some (.word w, s') => exec (decode w) s'
  | some (.access addr bytes kind, s') =>
    match accessWord addr bytes kind with
    | .ok w => exec (decode w) s'
    | .error r => .refused r
  | some (.reset, s') => .next (platformReset s')

/-- `s` with the transaction of the table bits `w` as the host's next event (log 1, log 5). Bits of a width that no
table row has are no transaction and change nothing. -/
def State.withFetchWord (s : State) (nbits w : Nat) : State :=
  match tableWord nbits w with
  | .ok t => s.deliver (.word t)
  | .error _ => s

end Sys2Proof.Machine
end

