-- ==== Sys2Proof/Machine/Messages.lean ====
section
/-! DEFINITION. The message level: the assembler's notation and the pseudo-instructions, each a list of T16 words
(spec/30_encoding.md R52 to R57), and the functions KS, HASH and OFFS the command sequences are held to
(spec/41_ctr_keystream.md R67, spec/42_keyed_hash.md R74, spec/43_offset_mask.md R81). -/

namespace Sys2Proof.Machine

/-! ### Assembling (R53) -/

/-- `WR off, b` assembles to `0x8000 + 256*off + b`. -/
def asmWr (off : Offset) (b : Byte) : T16 := packWord true off b

/-- `RD off` assembles to `256*off`. -/
def asmRd (off : Offset) : T16 := packWord false off 0x00

/-- `WR16 REG, B`: 16 words, ascending index (R54). -/
def wr16 (r : Reg16) (b : Block) : List T16 := (List.finRange 16).map fun i => asmWr (offOf r i) b[i]

/-- `RD16 REG`: 16 words, ascending index (R54). -/
def rd16 (r : Reg16) : List T16 := (List.finRange 16).map fun i => asmRd (offOf r i)

/-- `SETLEN L` (R54). -/
def setLen (len : Word16) : List T16 := [asmWr 0x60 (hi8 len), asmWr 0x61 (lo8 len)]

/-- `LOADKEY B` (R54). -/
def loadKey (b : Block) : List T16 := wr16 .key b ++ [encode .setkey]

/-! ### Blocks of a byte string (R10) -/

/-- Block `i` of `X`, `X[16*i .. 16*i+16]`, for `i < floor(len(X)/16)`. -/
def blockAt (x : List Byte) (i : Nat) : Block := Vector.ofFn fun j => x.getD (16 * i + j.val) 0

/-- The whole blocks of `X` in ascending order; a remainder of fewer than 16 bytes is left out (R68, R75). -/
def wholeBlocks (x : List Byte) : List Block := (List.range (x.length / 16)).map (blockAt x)

/-- The bytes of a list of blocks, in order. -/
def blocksBytes (bs : List Block) : List Byte := bs.flatMap fun b => b.toList

/-! ### The message-level functions -/

/-- The keystream blocks from index `i + 1` on: each block is encrypted counter xor data (R67). -/
def ksFrom (E : Cipher) (k nonce : Block) : Nat → List Block → List Block
  | _, [] => []
  | i, b :: bs => blockXor (E k (ctrk nonce (BitVec.ofNat 16 (i + 1)))) b :: ksFrom E k nonce (i + 1) bs

/-- `KS(k, N, X)` (R67): the output bytes of the whole blocks. More than 65535 blocks are outside its domain (R69):
no value (log 12). -/
def ks (E : Cipher) (k nonce : Block) (x : List Byte) : Option (List Byte) :=
  if x.length / 16 ≤ 65535 then some (blocksBytes (ksFrom E k nonce 0 (wholeBlocks x))) else none

/-- The chain `s_(i+1) = E(k, s_i xor block_i)` (R74). -/
def hashChain (E : Cipher) (k : Block) : Block → List Block → Block
  | s, [] => s
  | s, b :: bs => hashChain E k (E k (blockXor s b)) bs

/-- `HASH(k, N, X)` (R74): the full length enters the counter block, whole blocks enter the chain (R75). A length
above 65535 is outside its domain (R59): no value (log 12). -/
def hashTag (E : Cipher) (k nonce : Block) (x : List Byte) : Option Block :=
  if x.length ≤ 65535 then
    some (hashChain E k (E k (ctrh nonce (BitVec.ofNat 16 x.length))) (wholeBlocks x))
  else none

/-- `OFFS(k, N, V) = E(k, ctr0(N)) xor V` (R81). -/
def offs (E : Cipher) (k nonce v : Block) : Block := blockXor (E k (ctr0 nonce)) v

/-! ### The message-level pseudo-instructions -/

/-- `KS.MSG N, X -> Y` (R55), for at most 65535 whole blocks (R54). DESIGN CHOICE (log 12): no expansion outside that
domain; safe. -/
def ksMsg (nonce : Block) (x : List Byte) : Option (List T16) :=
  if x.length / 16 ≤ 65535 then
    some (wr16 .nonce nonce ++ encode .ctrinit ::
      (wholeBlocks x).flatMap fun b => wr16 .din b ++ encode .ctrnext :: rd16 .dout)
  else none

/-- `HASH.MSG N, X -> T` (R56): LEN is the full length, not 16 times the number of blocks. A length above 65535 has no
SETLEN (R54, R75 (d)) and is not cut modulo 65536 (N6). DESIGN CHOICE (log 12): no expansion there; safe. -/
def hashMsg (nonce : Block) (x : List Byte) : Option (List T16) :=
  if x.length ≤ 65535 then
    some (wr16 .nonce nonce ++ setLen (BitVec.ofNat 16 x.length) ++ encode .hashinit ::
      ((wholeBlocks x).flatMap fun b => wr16 .din b ++ [encode .hashupd]) ++ rd16 .acc)
  else none

/-- `OFFS.MSG N, V -> M` (R57). -/
def offsMsg (nonce v : Block) : List T16 :=
  wr16 .nonce nonce ++ wr16 .din v ++ encode .offset :: rd16 .dout

end Sys2Proof.Machine
end

