-- ==== Sys2Proof/Machine/HostSequences.lean ====
section
/-! DEFINITION. Host software around the CORE, as far as the spec gives it a meaning
(spec/45_host_sequences.md): outside the hardware (spec/00_scope.md R6), no instruction depends on it. chal_0's
outer record and its steps 3 and 4 are left open by the spec (R101, R102, U8) and are not here (log 13). -/

namespace Sys2Proof.Machine

/-- The next-challenge record: its three 16-byte fields, no byte layout (R93, R96). -/
structure NextChallenge where
  nonce : Block
  encChallenge : Block
  encHash : Block
deriving DecidableEq, Repr

/-- `KS` of one block (R67). -/
def ksOne (E : Cipher) (k nonce v : Block) : Block := blockXor (E k (ctrk nonce 1)) v

/-- `HASH` of one block (R74). -/
def hashOne (E : Cipher) (k nonce v : Block) : Block := hashChain E k (E k (ctrh nonce 16)) [v]

/-- The optional challenge value: absent means all zero (R107). -/
def challengeValue (v : Option Block) : Block := v.getD zeroBlock

/-- Next-challenge generation, layout B: the masked tag goes to the hash field (R109). -/
def generateB (E : Cipher) (k nonce : Block) (v : Option Block) : NextChallenge where
  nonce := nonce
  encChallenge := ksOne E k nonce (challengeValue v)
  encHash := offs E k nonce (hashOne E k nonce (challengeValue v))

/-- Next-challenge generation, layout A, the literal reading: the masked tag overwrites the challenge field and the
hash field keeps what the buffer held (R108, C3). -/
def generateA (E : Cipher) (k nonce : Block) (v : Option Block) (old : NextChallenge) : NextChallenge where
  nonce := nonce
  encChallenge := offs E k nonce (hashOne E k nonce (challengeValue v))
  encHash := old.encHash

/-- Next-challenge verification: the verdict and the recovered plaintext (R105). -/
def verify (E : Cipher) (k : Block) (r : NextChallenge) : Bool × Block :=
  let p := ksOne E k r.nonce r.encChallenge
  (hashOne E k r.nonce p == offs E k r.nonce r.encHash, p)

/-- The host program of layout B, the tag `t` being what its `HASH.MSG` read (R109). -/
def generateProgram (k nonce v t : Block) : Option (List T16) :=
  (ksMsg nonce v.toList).bind fun ks => (hashMsg nonce v.toList).map fun hash =>
    loadKey k ++ ks ++ hash ++ offsMsg nonce t

/-- The host program of verification, `p` being what its `KS.MSG` read (R105). -/
def verifyProgram (k : Block) (r : NextChallenge) (p : Block) : Option (List T16) :=
  (ksMsg r.nonce r.encChallenge.toList).bind fun ks => (hashMsg r.nonce p.toList).map fun hash =>
    loadKey k ++ ks ++ offsMsg r.nonce r.encHash ++ hash

/-- Reconnect response: one block encryption and an xor, which the CORE cannot compute (R111). -/
def reconnectResponse (E : Cipher) (k c0 c1 : Block) : Block := blockXor (E k c0) c1

end Sys2Proof.Machine
end

