-- ==== Sys2Proof/Safety.lean ====
section
/-! DEFINITION. What holds of every reachable state of the CORE, in the terms statements use
(spec/10_state.md R18, R24, spec/60_exceptions.md R117). -/

namespace Sys2Proof.Machine

/-- A cause code and command byte that an error can latch together (R117). -/
def legalLatch (code cmd : Byte) : Prop :=
  (code = 0x01 ∧ (cmd = 0x00 ∨ 0x09 ≤ cmd.toNat)) ∨
  (code = 0x02 ∧ (cmd = 0x03 ∨ cmd = 0x04 ∨ cmd = 0x05 ∨ cmd = 0x06)) ∨
  (code = 0x03 ∧ cmd = 0x03) ∨ (code = 0x04 ∧ cmd = 0x05) ∨ (code = 0x05 ∧ cmd = 0x03)

/-- The invariant of the CORE: an initialised accumulator has a key (R18); an initialised counter carries the
keystream mode tag (R24); ERRCODE and ERRCMD are 0x00 without an error and a pair of R117 with one (R20, R21). -/
structure CoreInv (m : CoreState) : Prop where
  accvKeyv : m.accv = true → m.k.isSome = true
  ctrvTag : m.ctrv = true → m.ctr[0] = tagKeystream
  clearZero : m.err = false → m.errcode = 0x00 ∧ m.errcmd = 0x00
  latchLegal : m.err = true → legalLatch m.errcode m.errcmd

/-- A latched error still describes the state: while the CORE is locked nothing removes the cause it recorded
(R119 to R122, R124). -/
def latchExplained (m : CoreState) : Prop :=
  m.err = true →
    (m.errcode = Cause.nokey.code → m.k = none) ∧
    (m.errcode = Cause.noctr.code → m.k ≠ none ∧ m.ctrv = false) ∧
    (m.errcode = Cause.noacc.code → m.k ≠ none ∧ m.accv = false) ∧
    (m.errcode = Cause.ctrwrap.code → m.k ≠ none ∧ m.ctrv = true ∧ m.ctr[14] = 0xFF ∧ m.ctr[15] = 0xFF)

/-- A transaction of the window, or the reset input: a T16 word, or a one-byte access at BASE + 0x00 to BASE + 0x7F
(R33, R34, R38, R132). -/
def HostEvent.isOrdinary : HostEvent → Bool
  | .word _ => true
  | .access addr bytes _ => bytes == 1 && decide (Config.base ≤ addr) && decide (addr ≤ Config.base + 0x7F)
  | .reset => true

/-- The two commands that clear the error latch (R17, R124). -/
def clearsLatch (i : Instr) : Bool := i == .clrerr || i == .sreset

/-- The instruction a host event has the CORE perform; the reset input has exactly the effect of SRESET (R133), and a
refused access performs none. -/
def HostEvent.instr : HostEvent → Option Instr
  | .word w => some (decode w)
  | .access addr bytes kind =>
    match accessWord addr bytes kind with
    | .ok w => some (decode w)
    | .error _ => none
  | .reset => some .sreset

/-- A host event that clears the error latch: CLRERR, SRESET or reset (R17, R144). -/
def HostEvent.mayClear (e : HostEvent) : Bool :=
  match e.instr with
  | some i => clearsLatch i
  | none => false

/-- The command byte an instruction executes: a command's opcode, or the byte a `wr` carries to CMD (R46, R85). -/
def commandByte : Instr → Option Byte
  | .wr off data => if off = cmdOffset then some data else none
  | .rd off => opcodeOf (.rd off)
  | .setkey => opcodeOf .setkey
  | .ctrinit => opcodeOf .ctrinit
  | .ctrnext => opcodeOf .ctrnext
  | .hashinit => opcodeOf .hashinit
  | .hashupd => opcodeOf .hashupd
  | .offset => opcodeOf .offset
  | .clrerr => opcodeOf .clrerr
  | .sreset => opcodeOf .sreset

/-- The command byte a host event has the CORE execute, reset counting as SRESET (R46, R133). -/
def HostEvent.command (e : HostEvent) : Option Byte := e.instr.bind commandByte

/-- Two machines the host cannot tell apart by reading: they differ at most in KEY, which reads 0x00, and in the key
inside `K`, of which only KEYV is visible (R26, R34). -/
def sameToHost (s s' : State) : Prop :=
  (s.core.k.isSome = s'.core.k.isSome) ∧
  { s.core with key := s'.core.key, k := s'.core.k } = s'.core ∧
  s.pending = s'.pending ∧ s.reads = s'.reads

/-- `n` steps of the machine, one host event each, stopping at the first refusal. -/
def run : Nat → State → Host.Outcome State Fault Refusal
  | 0, s => .next s
  | n + 1, s =>
    match step s with
    | .next t => run n t
    | .fault r => .fault r
    | .refused r => .refused r

/-- The host's events for a list of T16 words (R44). -/
def words (ws : List T16) : List HostEvent := ws.map HostEvent.word

end Sys2Proof.Machine
end

