-- ==== Sys2Proof/Certificates/Slice0/Obligations.lean ====
section
/-! DEFINITION. The statements of this model, for the provers. Each docstring names the rule of spec/ it states.
Where a statement speaks of `pending` and `reads`, these are the model's own form of the host's side of the port: what
the host issues next (log 1) and the bytes its reads returned (log 2). -/

open Sys2Proof Sys2Proof.Machine

/-! ### Encoding -/

/-- Decoding the encoding of a well-formed instruction gives it back, for every operand (R44, R46, R47, R53). -/
def Obligations.DecodeEncodeRoundTrip : Prop :=
  ∀ i : Instr, i.wellFormed = true → decode (encode i) = i

/-- Every one of the 65536 words decodes to a well-formed instruction; a write is the canonical word of what it
decodes to, and a read is up to its ignored data bits (R49). -/
def Obligations.EveryWordDecodesCanonically : Prop :=
  ∀ w : T16, (decode w).wellFormed = true ∧
    (w.getLsbD 15 = true → encode (decode w) = w) ∧
    (w.getLsbD 15 = false → encode (decode w) = w &&& 0xFF00 ∧
      ∃ off : Offset, decode w = .rd off ∧ off.toNat = w.toNat / 256)

/-- Words written out from the encoding tables decode to the instructions they stand for (R47, R53). -/
def Obligations.SampleWordsDecode : Prop :=
  decode 0x9022 = .wr 0x10 0x22 ∧ decode 0xE110 = .wr 0x61 0x10 ∧ decode 0xE300 = .wr 0x63 0x00 ∧
  decode 0x5F00 = .rd 0x5F ∧ decode 0x30A5 = .rd 0x30 ∧ decode 0x6300 = .rd 0x63 ∧
  decode 0xE201 = .setkey ∧ decode 0xE202 = .ctrinit ∧ decode 0xE203 = .ctrnext ∧ decode 0xE204 = .hashinit ∧
  decode 0xE205 = .hashupd ∧ decode 0xE206 = .offset ∧ decode 0xE207 = .clrerr ∧ decode 0xE208 = .sreset ∧
  decode 0xE200 = .wr 0x62 0x00 ∧ decode 0xE209 = .wr 0x62 0x09

/-! ### Counter blocks -/

/-- `ctr0(N)`: mode tag, the nonce's first 13 bytes, index 0; nonce bytes 13 to 15 do not enter (R58). -/
def Obligations.StartingCounterBytes : Prop :=
  ∀ nonce : Block,
    (ctr0 nonce)[0] = 0x01 ∧
    (∀ j : Nat, (h : j < 13) → (ctr0 nonce)[1 + j] = nonce[j]) ∧
    (ctr0 nonce)[14] = 0x00 ∧ (ctr0 nonce)[15] = 0x00 ∧
    (∀ nonce' : Block, (∀ j : Nat, (h : j < 13) → nonce'[j] = nonce[j]) → ctr0 nonce' = ctr0 nonce)

/-- `ctrh(N, L)`: mode tag 57, the nonce's first 13 bytes, the length with its high byte first (R59). -/
def Obligations.HashCounterBytes : Prop :=
  ∀ (nonce : Block) (len : Word16),
    (ctrh nonce len)[0] = 57 ∧
    (∀ j : Nat, (h : j < 13) → (ctrh nonce len)[1 + j] = nonce[j]) ∧
    (ctrh nonce len)[14].toNat = len.toNat / 256 ∧ (ctrh nonce len)[15].toNat = len.toNat % 256

/-- `inc`: byte 15 counts up, at 0xFF it becomes 0x00 with a carry of 1 into byte 14, and bytes 0 to 13 never change
(R61). -/
def Obligations.IncrementBytes : Prop :=
  ∀ b : Block, ¬(b[14] = 0xFF ∧ b[15] = 0xFF) → ∃ d : Block, inc b = some d ∧
    (∀ j : Nat, (h : j < 14) → d[j] = b[j]) ∧
    (b[15] ≠ 0xFF → d[15].toNat = b[15].toNat + 1 ∧ d[14] = b[14]) ∧
    (b[15] = 0xFF → d[15] = 0x00 ∧ d[14].toNat = b[14].toNat + 1)

/-- `inc` has no value exactly where both index bytes are 0xFF (R62). -/
def Obligations.IncrementUndefinedAtTop : Prop :=
  ∀ b : Block, inc b = none ↔ b[14] = 0xFF ∧ b[15] = 0xFF

/-- `ctrk(N, 0)` is `ctr0(N)`, `inc` takes index `i` to `i + 1`, and `n` increments of `ctr0(N)` are `ctrk(N, n)`
(R63). The spec marks this its own inference, from R58 and R61 (R63). -/
def Obligations.IncrementAdvancesIndex : Prop :=
  ∀ nonce : Block,
    (∀ i : Word16, (ctrk nonce i)[0] = 0x01 ∧
      (∀ j : Nat, (h : j < 13) → (ctrk nonce i)[1 + j] = nonce[j]) ∧
      (ctrk nonce i)[14].toNat = i.toNat / 256 ∧ (ctrk nonce i)[15].toNat = i.toNat % 256) ∧
    ctrk nonce 0 = ctr0 nonce ∧
    (∀ i : Word16, i ≠ 0xFFFF → inc (ctrk nonce i) = some (ctrk nonce (i + 1))) ∧
    (∀ n : Nat, n ≤ 65535 →
      (fun o : Option Block => o.bind inc)^[n] (some (ctr0 nonce)) = some (ctrk nonce (BitVec.ofNat 16 n)))

/-- The keystream and offset units never encrypt a block HASHINIT encrypts (R60). The spec marks this its own
inference, from R58 and R59 (R60). -/
def Obligations.KeystreamAndHashBlocksDiffer : Prop :=
  ∀ (nonce nonce' : Block) (i len : Word16), ctrk nonce i ≠ ctrh nonce' len

/-! ### Transactions -/

/-- RD, the word `256*off`, returns the byte of the window's table, KEY, CMD and the reserved offsets reading 0x00,
and changes no state of the CORE (R84). That the returned byte is appended to `reads` is the model's form of R84's
result (log 2). -/
def Obligations.ReadReturnsWindowByte : Prop :=
  ∀ (s : State) (off : Offset), decode (256#16 * off.setWidth 16) = .rd off ∧ ∃ v : Byte,
    exec (.rd off) s = .next { s with reads := s.reads ++ [v] } ∧
    (∀ i : Fin 16,
      (off.toNat = i.val → v = 0x00) ∧
      (off.toNat = 0x10 + i.val → v = s.core.nonce[i]) ∧
      (off.toNat = 0x20 + i.val → v = s.core.din[i]) ∧
      (off.toNat = 0x30 + i.val → v = s.core.dout[i]) ∧
      (off.toNat = 0x40 + i.val → v = s.core.ctr[i]) ∧
      (off.toNat = 0x50 + i.val → v = s.core.acc[i])) ∧
    (off = 0x60 → v.toNat = s.core.len.toNat / 256) ∧
    (off = 0x61 → v.toNat = s.core.len.toNat % 256) ∧
    (off = 0x62 → v = 0x00) ∧
    (off = 0x63 → v.toNat = s.core.k.isSome.toNat + 2 * s.core.ctrv.toNat + 4 * s.core.accv.toNat
      + 128 * s.core.err.toNat) ∧
    (off = 0x64 → v = s.core.errcode) ∧
    (off = 0x65 → v = s.core.errcmd) ∧
    (0x66 ≤ off.toNat → v = 0x00)

/-- WR stores one byte in KEY, NONCE, DIN or LEN whether ERR is 0 or 1, executes the command at CMD, and does nothing
at any other offset (R83). -/
def Obligations.WriteStoresWindowByte : Prop :=
  ∀ (s : State) (off : Offset) (d : Byte), ∃ t : State,
    exec (.wr off d) s = .next t ∧
    (∀ i : Fin 16,
      (off.toNat = i.val → t = { s with core := { s.core with key := s.core.key.set i d } }) ∧
      (off.toNat = 0x10 + i.val → t = { s with core := { s.core with nonce := s.core.nonce.set i d } }) ∧
      (off.toNat = 0x20 + i.val → t = { s with core := { s.core with din := s.core.din.set i d } })) ∧
    (off = 0x60 → ∃ len : Word16, t = { s with core := { s.core with len := len } } ∧
      len.toNat = 256 * d.toNat + s.core.len.toNat % 256) ∧
    (off = 0x61 → ∃ len : Word16, t = { s with core := { s.core with len := len } } ∧
      len.toNat = 256 * (s.core.len.toNat / 256) + d.toNat) ∧
    (off = 0x62 → t = { s with core := runCommand Config.cipher d s.core }) ∧
    (0x30 ≤ off.toNat ∧ off.toNat < 0x60 ∨ 0x63 ≤ off.toNat → t = s)

/-- After a write away from CMD every other offset reads as before; NONCE, DIN and LEN read back the byte written, and
every other location, KEY among them, reads as before (R31, R34). -/
def Obligations.ReadBackAfterWrite : Prop :=
  ∀ (s : State) (off : Offset) (d : Byte), off ≠ 0x62 → ∃ t : State,
    exec (.wr off d) s = .next t ∧
    (∀ off' : Offset, off' ≠ off → memRead off' t.core = memRead off' s.core) ∧
    memRead off t.core =
      if 0x10 ≤ off.toNat ∧ off.toNat < 0x30 ∨ off = 0x60 ∨ off = 0x61 then d else memRead off s.core

/-- Only a write to CMD can set ERR: no read, and no write elsewhere, changes the error latch (R131). -/
def Obligations.RegisterAccessNeverErrs : Prop :=
  ∀ (s : State) (off : Offset) (d : Byte),
    (∃ t : State, exec (.rd off) s = .next t ∧ t.core = s.core) ∧
    (off ≠ 0x62 → ∃ t : State, exec (.wr off d) s = .next t ∧
      t.core.err = s.core.err ∧ t.core.errcode = s.core.errcode ∧ t.core.errcmd = s.core.errcmd)

/-! ### Commands -/

/-- SETKEY, the word 0xE201: the staged key becomes the active key, KEY is wiped, CTRV and ACCV become 0; ignored when
locked (R88). -/
def Obligations.SetkeyResult : Prop :=
  decode 0xE201 = .setkey ∧ ∀ s : State,
    (s.core.err = false → exec .setkey s = .next { s with core := { s.core with
      k := some s.core.key, key := Vector.replicate 16 0, ctrv := false, accv := false } }) ∧
    (s.core.err = true → exec .setkey s = .next s)

/-- CTRINIT, the word 0xE202: CTR takes the starting counter, CTRV becomes 1, with or without a key; ignored when
locked (R65). -/
def Obligations.CtrinitResult : Prop :=
  decode 0xE202 = .ctrinit ∧ ∀ s : State,
    (s.core.err = false →
      exec .ctrinit s = .next { s with core := { s.core with ctr := ctr0 s.core.nonce, ctrv := true } }) ∧
    (s.core.err = true → exec .ctrinit s = .next s)

/-- CTRNEXT, the word 0xE203: increment first, the new CTR is what is encrypted; its errors in their order, each
changing the error latch alone; ignored when locked (R71). -/
def Obligations.CtrnextResult : Prop :=
  decode 0xE203 = .ctrnext ∧ ∀ s : State,
    (s.core.err = true → exec .ctrnext s = .next s) ∧
    (s.core.err = false → s.core.k = none → exec .ctrnext s =
      .next { s with core := { s.core with err := true, errcode := 0x02, errcmd := 0x03 } }) ∧
    (∀ key : Block, s.core.err = false → s.core.k = some key →
      (s.core.ctrv = false → exec .ctrnext s =
        .next { s with core := { s.core with err := true, errcode := 0x03, errcmd := 0x03 } }) ∧
      (s.core.ctrv = true → s.core.ctr[14] = 0xFF ∧ s.core.ctr[15] = 0xFF → exec .ctrnext s =
        .next { s with core := { s.core with err := true, errcode := 0x05, errcmd := 0x03 } }) ∧
      (s.core.ctrv = true → ¬(s.core.ctr[14] = 0xFF ∧ s.core.ctr[15] = 0xFF) →
        ∃ ctr' : Block, inc s.core.ctr = some ctr' ∧ exec .ctrnext s =
          .next { s with core := { s.core with
            ctr := ctr', dout := blockXor (Config.cipher key ctr') s.core.din } }))

/-- HASHINIT, the word 0xE204: ACC takes the encrypted hash counter block of NONCE and LEN, ACCV becomes 1; NOKEY
without a key; ignored when locked (R76). -/
def Obligations.HashinitResult : Prop :=
  decode 0xE204 = .hashinit ∧ ∀ s : State,
    (s.core.err = true → exec .hashinit s = .next s) ∧
    (s.core.err = false → s.core.k = none → exec .hashinit s =
      .next { s with core := { s.core with err := true, errcode := 0x02, errcmd := 0x04 } }) ∧
    (∀ key : Block, s.core.err = false → s.core.k = some key → exec .hashinit s =
      .next { s with core := { s.core with
        acc := Config.cipher key (ctrh s.core.nonce s.core.len), accv := true } })

/-- HASHUPD, the word 0xE205: ACC takes the encryption of ACC xor DIN; NOKEY, then NOACC; ignored when locked (R77). -/
def Obligations.HashupdResult : Prop :=
  decode 0xE205 = .hashupd ∧ ∀ s : State,
    (s.core.err = true → exec .hashupd s = .next s) ∧
    (s.core.err = false → s.core.k = none → exec .hashupd s =
      .next { s with core := { s.core with err := true, errcode := 0x02, errcmd := 0x05 } }) ∧
    (∀ key : Block, s.core.err = false → s.core.k = some key →
      (s.core.accv = false → exec .hashupd s =
        .next { s with core := { s.core with err := true, errcode := 0x04, errcmd := 0x05 } }) ∧
      (s.core.accv = true → exec .hashupd s =
        .next { s with core := { s.core with acc := Config.cipher key (blockXor s.core.acc s.core.din) } }))

/-- OFFSET, the word 0xE206: DOUT takes the encrypted starting counter of NONCE xor DIN, CTR and CTRV untouched; NOKEY
without a key; ignored when locked (R82). -/
def Obligations.OffsetResult : Prop :=
  decode 0xE206 = .offset ∧ ∀ s : State,
    (s.core.err = true → exec .offset s = .next s) ∧
    (s.core.err = false → s.core.k = none → exec .offset s =
      .next { s with core := { s.core with err := true, errcode := 0x02, errcmd := 0x06 } }) ∧
    (∀ key : Block, s.core.err = false → s.core.k = some key → exec .offset s =
      .next { s with core := { s.core with dout := blockXor (Config.cipher key (ctr0 s.core.nonce)) s.core.din } })

/-- CLRERR, the word 0xE207: the three latch fields are cleared in every state and nothing else changes (R89). -/
def Obligations.ClrerrResult : Prop :=
  decode 0xE207 = .clrerr ∧ ∀ s : State, exec .clrerr s =
    .next { s with core := { s.core with err := false, errcode := 0x00, errcmd := 0x00 } }

/-- SRESET, the word 0xE208: every field of the CORE at its reset value, in every state (R90). That `pending` and
`reads` survive it is the model's, log 15. -/
def Obligations.SresetResult : Prop :=
  decode 0xE208 = .sreset ∧ ∀ s : State, exec .sreset s = .next { s with core := {
    key := Vector.replicate 16 0, nonce := Vector.replicate 16 0, din := Vector.replicate 16 0,
    dout := Vector.replicate 16 0, len := 0, ctr := Vector.replicate 16 0, acc := Vector.replicate 16 0, k := none,
    ctrv := false, accv := false, err := false, errcode := 0x00, errcmd := 0x00 } }

/-- The dispatch of a byte written to CMD, in the order of its checks: SRESET, CLRERR, the lock, ILLCMD, the command
of the byte (R85). -/
def Obligations.CommandDispatch : Prop :=
  ∀ (s : State) (b : Byte),
    (b = 0x08 → exec (.wr 0x62 b) s = exec .sreset s) ∧
    (b = 0x07 → exec (.wr 0x62 b) s = exec .clrerr s) ∧
    (b ≠ 0x08 → b ≠ 0x07 → s.core.err = true → exec (.wr 0x62 b) s = .next s) ∧
    (b = 0x00 ∨ 0x09 ≤ b.toNat → s.core.err = false → exec (.wr 0x62 b) s =
      .next { s with core := { s.core with err := true, errcode := 0x01, errcmd := b } }) ∧
    (∀ i : Instr, 0x01 ≤ b.toNat → b.toNat ≤ 0x06 → s.core.err = false → opcodeOf i = some b →
      exec (.wr 0x62 b) s = exec i s)

/-! ### The error latch -/

/-- ILLCMD: a byte that names no command latches code 0x01 and itself, and changes nothing else (R118). -/
def Obligations.IllegalCommandLatches : Prop :=
  ∀ (s : State) (b : Byte), s.core.err = false → b = 0x00 ∨ 0x09 ≤ b.toNat →
    exec (.wr 0x62 b) s = .next { s with core := { s.core with err := true, errcode := 0x01, errcmd := b } }

/-- NOKEY: each of the four commands that encrypt latches code 0x02 without a key, whatever the other flags say
(R119). -/
def Obligations.NoKeyLatches : Prop :=
  ∀ s : State, s.core.err = false → s.core.k = none →
    ∀ (i : Instr) (b : Byte),
      (i = .ctrnext ∧ b = 0x03) ∨ (i = .hashinit ∧ b = 0x04) ∨ (i = .hashupd ∧ b = 0x05) ∨
        (i = .offset ∧ b = 0x06) →
      exec i s = .next { s with core := { s.core with err := true, errcode := 0x02, errcmd := b } }

/-- NOCTR: CTRNEXT with a key and no initialised counter latches code 0x03 (R120). -/
def Obligations.NoCounterLatches : Prop :=
  ∀ s : State, s.core.err = false → s.core.k ≠ none → s.core.ctrv = false →
    exec .ctrnext s = .next { s with core := { s.core with err := true, errcode := 0x03, errcmd := 0x03 } }

/-- NOACC: HASHUPD with a key and no initialised accumulator latches code 0x04 (R121). -/
def Obligations.NoAccumulatorLatches : Prop :=
  ∀ s : State, s.core.err = false → s.core.k ≠ none → s.core.accv = false →
    exec .hashupd s = .next { s with core := { s.core with err := true, errcode := 0x04, errcmd := 0x05 } }

/-- CTRWRAP: CTRNEXT with a key and an initialised counter at index 65535 latches code 0x05, and the counter stays
there (R122). -/
def Obligations.CounterWrapLatches : Prop :=
  ∀ s : State, s.core.err = false → s.core.k ≠ none → s.core.ctrv = true →
    s.core.ctr[14] = 0xFF → s.core.ctr[15] = 0xFF →
    exec .ctrnext s = .next { s with core := { s.core with err := true, errcode := 0x05, errcmd := 0x03 } }

/-- A command performs all of its writes or, on an error, none of them: after an error the state is the state before
plus the three latch fields, which hold a legal pair and the command's own byte (R126). -/
def Obligations.ErrorsArePrecise : Prop :=
  ∀ (i : Instr) (s t : State), exec i s = .next t → s.core.err = false → t.core.err = true →
    ∃ code b : Byte, commandByte i = some b ∧ legalLatch code b ∧
      t = { s with core := { s.core with err := true, errcode := code, errcmd := b } }

/-- Locked: every command byte but CLRERR and SRESET is ignored, as an instruction of its own or as a write to CMD,
and register accesses away from CMD behave as they do when ERR is 0 (R124). -/
def Obligations.LockedIgnoresCommands : Prop :=
  ∀ s : State, s.core.err = true →
    (∀ (i : Instr) (b : Byte), commandByte i = some b → b ≠ 0x07 → b ≠ 0x08 → exec i s = .next s) ∧
    (∀ (off : Offset) (d : Byte) (u : State), off ≠ 0x62 →
      exec (.wr off d) { s with core := { s.core with err := false } } = .next u →
      exec (.wr off d) s = .next { u with core := { u.core with err := true } }) ∧
    (∀ off : Offset, off ≠ 0x63 → memRead off s.core = memRead off { s.core with err := false })

/-- While the CORE stays locked, whatever the host sends, the first error is kept and nothing is computed: the key,
the counter, the accumulator, the output and the flags keep their values (R116, R124). -/
def Obligations.FirstErrorKept : Prop :=
  ∀ (n : Nat) (s t : State), s.core.err = true →
    (∀ e ∈ s.pending.take n, HostEvent.mayClear e = false) → run n s = .next t →
    t.core.err = true ∧ t.core.errcode = s.core.errcode ∧ t.core.errcmd = s.core.errcmd ∧
    t.core.k = s.core.k ∧ t.core.ctr = s.core.ctr ∧ t.core.acc = s.core.acc ∧ t.core.dout = s.core.dout ∧
    t.core.ctrv = s.core.ctrv ∧ t.core.accv = s.core.accv

/-- If ERR is 0 after a run in which nothing cleared it, it was 0 throughout (R144). The spec marks this its own
inference, from R116 and R124 (R144). -/
def Obligations.NoErrorAtEndMeansNoneThroughout : Prop :=
  ∀ (n : Nat) (s t : State), (∀ e ∈ s.pending.take n, HostEvent.mayClear e = false) → run n s = .next t →
    t.core.err = false → ∀ m : Nat, m ≤ n → ∃ u : State, run m s = .next u ∧ u.core.err = false

/-! ### What may write what, and what the host can learn -/

/-- Every register and flag changes only by its listed writers (R15, R17, R30, R117): a byte of a host write, or the
commands of the tables. ERR is set by a command byte other than SETKEY, CTRINIT, CLRERR and SRESET, and ERRCODE and
ERRCMD change by a command byte other than SETKEY and CTRINIT. -/
def Obligations.OnlyListedWritersChange : Prop :=
  ∀ (i : Instr) (s t : State), exec i s = .next t →
    (t.core.key ≠ s.core.key → commandByte i ∈ [some 0x01, some 0x08] ∨
      ∃ off d, i = .wr off d ∧ off.toNat < 0x10) ∧
    (t.core.nonce ≠ s.core.nonce → commandByte i = some 0x08 ∨
      ∃ off d, i = .wr off d ∧ 0x10 ≤ off.toNat ∧ off.toNat < 0x20) ∧
    (t.core.din ≠ s.core.din → commandByte i = some 0x08 ∨
      ∃ off d, i = .wr off d ∧ 0x20 ≤ off.toNat ∧ off.toNat < 0x30) ∧
    (t.core.len ≠ s.core.len → commandByte i = some 0x08 ∨ ∃ off d, i = .wr off d ∧ (off = 0x60 ∨ off = 0x61)) ∧
    (t.core.dout ≠ s.core.dout → commandByte i ∈ [some 0x03, some 0x06, some 0x08]) ∧
    (t.core.ctr ≠ s.core.ctr → commandByte i ∈ [some 0x02, some 0x03, some 0x08]) ∧
    (t.core.acc ≠ s.core.acc → commandByte i ∈ [some 0x04, some 0x05, some 0x08]) ∧
    (t.core.k ≠ s.core.k → commandByte i ∈ [some 0x01, some 0x08]) ∧
    (t.core.ctrv ≠ s.core.ctrv → commandByte i ∈ [some 0x01, some 0x02, some 0x08]) ∧
    (t.core.accv ≠ s.core.accv → commandByte i ∈ [some 0x01, some 0x04, some 0x08]) ∧
    (t.core.err = false → s.core.err = true → commandByte i ∈ [some 0x07, some 0x08]) ∧
    (t.core.err = true → s.core.err = false → ∃ b : Byte, commandByte i = some b ∧ b ∉ [0x01, 0x02, 0x07, 0x08]) ∧
    (t.core.errcode ≠ s.core.errcode ∨ t.core.errcmd ≠ s.core.errcmd →
      ∃ b : Byte, commandByte i = some b ∧ b ∉ [0x01, 0x02]) ∧
    t.pending = s.pending ∧ (t.reads ≠ s.reads → ∃ off, i = .rd off)

/-- The counter keeps its mode tag and its nonce: CTR[0..14] changes only at CTRINIT, which copies NONCE[0..13], and
at SRESET; a later write to NONCE does not change it (R24). The spec marks this its own inference, from R58, R61 and
R65 (R24). -/
def Obligations.CounterPrefixKept : Prop :=
  ∀ (i : Instr) (s t : State), exec i s = .next t →
    (commandByte i ≠ some 0x02 → commandByte i ≠ some 0x08 →
      ∀ j : Nat, (h : j < 14) → t.core.ctr[j] = s.core.ctr[j]) ∧
    (commandByte i = some 0x02 → s.core.err = false →
      t.core.ctr[0] = 0x01 ∧ ∀ j : Nat, (h : j < 13) → t.core.ctr[1 + j] = s.core.nonce[j])

/-- The host learns nothing of KEY or of the key in K except through CTRNEXT, HASHINIT, HASHUPD and OFFSET: two
machines that read alike still read alike after any other instruction, and every offset reads the same in both (R26,
R34). -/
def Obligations.KeyStaysHidden : Prop :=
  ∀ (i : Instr) (s s' : State), sameToHost s s' →
    (∀ off : Offset, memRead off s.core = memRead off s'.core) ∧
    (commandByte i ∉ [some 0x03, some 0x04, some 0x05, some 0x06] →
      ∃ t t' : State, exec i s = .next t ∧ exec i s' = .next t' ∧ sameToHost t t')

/-- NONCE bytes 13 to 15 are stored and no command uses them: two states that differ in them alone differ in them
alone, or not at all, after every command (R15, U15). -/
def Obligations.NonceTailUnused : Prop :=
  ∀ (i : Instr) (b : Byte) (s : State) (nonce' : Block), commandByte i = some b →
    (∀ j : Nat, (h : j < 13) → nonce'[j] = s.core.nonce[j]) →
    ∃ t t' : State, exec i s = .next t ∧
      exec i { s with core := { s.core with nonce := nonce' } } = .next t' ∧
      t'.reads = t.reads ∧ t'.pending = t.pending ∧
      ({ t'.core with nonce := t.core.nonce } = t.core) ∧
      (∀ j : Nat, (h : j < 13) → t'.core.nonce[j] = t.core.nonce[j])

/-! ### The step -/

/-- A step runs the decoded instruction: with a word pending, `step` is `exec` of what the word decodes to, on the
state whose pending events are the rest (R40, R44). That the host's words wait in `pending` is the model's choice, log
1. -/
def Obligations.StepRunsDecodedWord : Prop :=
  ∀ (s : State) (w : T16) (rest : List HostEvent) (i : Instr),
    s.pending = .word w :: rest → decode w = i → i.wellFormed = true →
    step s = exec i { s with pending := rest }

/-- With nothing pending the CORE is idle: a step changes nothing. The model's choice, log 8, deduced from R130. -/
def Obligations.IdleStepChangesNothing : Prop :=
  ∀ s : State, s.pending = [] → step s = .next s

/-- The reset input puts every field of the CORE at its reset value, exactly as SRESET does (R132, R133). That the
host's own events and bytes survive it is the model's, log 15. -/
def Obligations.ResetInputEqualsSreset : Prop :=
  ∀ (s : State) (rest : List HostEvent), s.pending = .reset :: rest →
    step s = exec .sreset { s with pending := rest } ∧
    ∃ t : State, step s = .next t ∧ t.core = State.reset.core ∧ t.pending = rest ∧ t.reads = s.reads

/-- The reset state: every register zero, no key, all flags 0, and every offset of the window reads 0x00 (R29). -/
def Obligations.ResetValues : Prop :=
  State.reset.core = {
    key := Vector.replicate 16 0, nonce := Vector.replicate 16 0, din := Vector.replicate 16 0,
    dout := Vector.replicate 16 0, len := 0, ctr := Vector.replicate 16 0, acc := Vector.replicate 16 0, k := none,
    ctrv := false, accv := false, err := false, errcode := 0x00, errcmd := 0x00 } ∧
  ∀ off : Offset, memRead off State.reset.core = 0x00

/-- A byte access at BASE + off is the transaction at off; an access of another width is refused, and so is an address
outside the window (R33, R35, R38, R83). The refusals' names and their order are the model's, log 4. -/
def Obligations.PlatformAccessIsTransaction : Prop :=
  ∀ (s : State) (rest : List HostEvent) (off : Offset) (d : Byte) (addr bytes : Nat) (kind : AccessKind),
    (s.pending = .access (Config.base + off.toNat) 1 (.write d) :: rest →
      step s = exec (decode (0x8000#16 + 256#16 * off.setWidth 16 + d.setWidth 16)) { s with pending := rest }) ∧
    (s.pending = .access (Config.base + off.toNat) 1 .read :: rest →
      step s = exec (.rd off) { s with pending := rest }) ∧
    (s.pending = .access addr bytes kind :: rest → bytes ≠ 1 → step s = .refused .wideAccess) ∧
    (s.pending = .access addr 1 kind :: rest → addr < Config.base ∨ Config.base + 128 ≤ addr →
      step s = .refused .outsideWindow)

/-- T16 words, one-byte accesses inside the window and resets never stop the machine: any number of steps answers a
next state, one event each (R34, R40, R131). That SRESET and reset leave `pending` alone is the model's, log 15, and
so is that a step past the end of the list is idle, log 8. -/
def Obligations.OrdinaryEventsNeverStop : Prop :=
  ∀ (n : Nat) (s : State), (∀ e ∈ s.pending, HostEvent.isOrdinary e = true) →
    ∃ t : State, run n s = .next t ∧ t.pending = s.pending.drop n

/-! ### Invariants -/

/-- The invariant holds at reset (R29). -/
def Obligations.ResetMeetsInvariant : Prop := CoreInv State.reset.core

/-- Every step keeps the invariant: ACCV = 1 implies a key, CTRV = 1 implies the keystream tag in CTR[0], ERRCODE and
ERRCMD are 0x00 or a pair of the cause table as ERR is 0 or 1 (R18, R20, R21, R24, R117). The first two clauses are
inferences the spec marks as its own (R18 from R76, R88 and R90, R24 from R58, R61 and R65). -/
def Obligations.EveryStepKeepsInvariant : Prop :=
  ∀ s t : State, CoreInv s.core → step s = .next t → CoreInv t.core

/-- The values STATUS can read in a state of the invariant (R18). That ACCV = 1 implies KEYV = 1 is an inference the
spec marks as its own (R18). -/
def Obligations.StatusValues : Prop :=
  ∀ m : CoreState, CoreInv m → (memRead 0x63 m).toNat ∈
    [0x00, 0x01, 0x02, 0x03, 0x05, 0x07, 0x80, 0x81, 0x82, 0x83, 0x85, 0x87]

/-- At reset a latched error describes the state (there is none). -/
def Obligations.ResetMeetsLatchExplained : Prop := latchExplained State.reset.core

/-- Every step keeps it: a latched NOKEY finds no key, a latched NOCTR or NOACC its flag clear, a latched CTRWRAP the
counter at index 65535, for as long as the error is latched (R119 to R122, R124). -/
def Obligations.EveryStepKeepsLatchExplained : Prop :=
  ∀ s t : State, latchExplained s.core → step s = .next t → latchExplained t.core

/-! ### The message level -/

/-- The keystream is its own inverse, for every cipher (R70). The spec marks this its own inference, from R67 and R64
(R70). -/
def Obligations.KeystreamIsSelfInverse : Prop :=
  ∀ (E : Cipher) (k nonce : Block) (x : List Byte), x.length % 16 = 0 → x.length / 16 ≤ 65535 →
    ∃ y : List Byte, ks E k nonce x = some y ∧ y.length = x.length ∧ ks E k nonce y = some x

/-- The bytes of `KS`: each is the pad byte of index `i + 1` xor the input byte; a remainder is left out (R67, R68). -/
def Obligations.KeystreamBytes : Prop :=
  ∀ (E : Cipher) (k nonce : Block) (x : List Byte), x.length / 16 ≤ 65535 →
    ∃ y : List Byte, ks E k nonce x = some y ∧ y.length = 16 * (x.length / 16) ∧
      ∀ (i : Nat) (j : Fin 16), i < x.length / 16 →
        y[16 * i + j.val]? = (x[16 * i + j.val]?).map fun b =>
          (E k (ctrk nonce (BitVec.ofNat 16 (i + 1))))[j] ^^^ b

/-- The mask is the encrypted index-0 counter block xor the value, its own inverse in the value, for every cipher, and
masking zeros gives the pad (R81). That it is its own inverse is an inference the spec marks as its own, from R64
(R81). -/
def Obligations.OffsetMaskIsSelfInverse : Prop :=
  ∀ (E : Cipher) (k nonce v : Block),
    (∀ j : Fin 16, (offs E k nonce v)[j] = (E k (ctr0 nonce))[j] ^^^ v[j]) ∧
    ctr0 nonce = ctrk nonce 0 ∧ offs E k nonce (offs E k nonce v) = v ∧
    offs E k nonce (Vector.replicate 16 0) = E k (ctr0 nonce)

/-- Host software, layout B: verifying a generated record succeeds and recovers the challenge value, for every cipher,
absent meaning zeros (R105, R107, R109). -/
def Obligations.VerifyAcceptsGenerated : Prop :=
  ∀ (E : Cipher) (k nonce : Block) (v : Option Block),
    verify E k (generateB E k nonce v) = (true, v.getD (Vector.replicate 16 0))

/-- LOADKEY: 17 transactions leave the key active, KEY wiped and both flags clear, from any unlocked state (R54, R88). -/
def Obligations.LoadKeyLoads : Prop :=
  ∀ (s : State) (b : Block) (rest : List HostEvent), s.core.err = false →
    s.pending = words (loadKey b) ++ rest →
    run 17 s = .next { s with pending := rest, core := { s.core with
      k := some b, key := Vector.replicate 16 0, ctrv := false, accv := false } }

/-- KS.MSG computes KS: for every message of at most 65535 whole blocks the expansion has 17 + 33 * nb words, and
from an unlocked state with a key it runs in as many steps, the host reads exactly `KS(k, N, X)`, the counter ends at
index nb, and the accumulator, the key and LEN are as before (R55). What the counter and the blocks are on the way is
an inference the spec marks as its own (R72). `pending` and `reads` are the model's, logs 1 and 2. Other transactions
in between: InterleavedKeystreamCounts. -/
def Obligations.KeystreamMessageComputesKs : Prop :=
  ∀ (nonce : Block) (x : List Byte), x.length / 16 ≤ 65535 →
    ∃ ws : List T16, ksMsg nonce x = some ws ∧ ws.length = 17 + 33 * (x.length / 16) ∧
    ∀ (s : State) (key : Block) (rest : List HostEvent),
    s.core.err = false → s.core.k = some key → s.pending = words ws ++ rest →
    ∃ (t : State) (y : List Byte), run (17 + 33 * (x.length / 16)) s = .next t ∧
      ks Config.cipher key nonce x = some y ∧ t.reads = s.reads ++ y ∧ t.pending = rest ∧
      t.core.err = false ∧ t.core.ctr = ctrk nonce (BitVec.ofNat 16 (x.length / 16)) ∧ t.core.ctrv = true ∧
      t.core.nonce = nonce ∧ t.core.k = some key ∧ t.core.key = s.core.key ∧ t.core.len = s.core.len ∧
      t.core.acc = s.core.acc ∧ t.core.accv = s.core.accv

/-- HASH.MSG computes HASH: for every message of at most 65535 bytes the expansion has 35 + 17 * nb words, and from
an unlocked state with a key it runs in as many steps, the host reads exactly the tag, and ACC holds it (R56). That
the tag is HASH(k, N, X), and that CTR, CTRV, DOUT and KEY are as before, follows from R74, R76 and R77; the spec
marks the first its own inference (R79). `pending` and `reads` are the model's, logs 1 and 2. Other transactions in
between: InterleavedHashChains. -/
def Obligations.HashMessageComputesHash : Prop :=
  ∀ (nonce : Block) (x : List Byte), x.length ≤ 65535 →
    ∃ ws : List T16, hashMsg nonce x = some ws ∧ ws.length = 35 + 17 * (x.length / 16) ∧
    ∀ (s : State) (key : Block) (rest : List HostEvent),
    s.core.err = false → s.core.k = some key → s.pending = words ws ++ rest →
    ∃ (t : State) (tag : Block), run (35 + 17 * (x.length / 16)) s = .next t ∧
      hashTag Config.cipher key nonce x = some tag ∧ t.reads = s.reads ++ tag.toList ∧ t.pending = rest ∧
      t.core.acc = tag ∧ t.core.accv = true ∧ t.core.err = false ∧ t.core.nonce = nonce ∧
      t.core.len.toNat = x.length ∧ t.core.k = some key ∧ t.core.key = s.core.key ∧ t.core.ctr = s.core.ctr ∧
      t.core.ctrv = s.core.ctrv ∧ t.core.dout = s.core.dout

/-- R72 with other transactions in between: over any run in which no SETKEY, CTRINIT, SRESET or reset is performed and
the CORE is never locked, the counter advances by the number of CTRNEXTs, DOUT keeps its block where neither CTRNEXT nor
OFFSET is performed, and a run that ends with a CTRNEXT leaves in DOUT the encryption of the counter then in CTR, xor
DIN. The spec marks this its own inference, from R63, R65, R67 and R71. `pending` is the model's, log 1, and so is that
a step past its end is idle, log 8. -/
def Obligations.InterleavedKeystreamCounts : Prop :=
  ∀ (n : Nat) (s t : State) (key nonce : Block) (i : Nat),
    s.core.k = some key → s.core.ctrv = true → i ≤ 65535 → s.core.ctr = ctrk nonce (BitVec.ofNat 16 i) →
    (∀ e ∈ s.pending.take n, e.command ∉ [some 0x01, some 0x02, some 0x08]) →
    (∀ (m : Nat) (u : State), m ≤ n → run m s = .next u → u.core.err = false) →
    run n s = .next t →
    i + (s.pending.take n).countP (fun e => e.command == some 0x03) ≤ 65535 ∧
    t.core.ctr = ctrk nonce (BitVec.ofNat 16 (i + (s.pending.take n).countP fun e => e.command == some 0x03)) ∧
    t.core.ctrv = true ∧ t.core.k = some key ∧
    ((∀ e ∈ s.pending.take n, e.command ∉ [some 0x03, some 0x06]) → t.core.dout = s.core.dout) ∧
    (∀ (m : Nat) (e : HostEvent), n = m + 1 → s.pending[m]? = some e → e.command = some 0x03 →
      t.core.dout = blockXor (Config.cipher key t.core.ctr) t.core.din)

/-- R79 with other transactions in between: over any run in which no SETKEY, HASHINIT, SRESET or reset is performed and
the CORE is never locked, ACC keeps its value where no HASHUPD is performed, and a run that ends with a HASHUPD leaves in
ACC the encryption of the ACC before it, xor DIN. The spec marks this its own inference, from R74, R76 and R77.
`pending` is the model's, log 1, and so is that a step past its end is idle, log 8. -/
def Obligations.InterleavedHashChains : Prop :=
  ∀ (n : Nat) (s t : State) (key : Block),
    s.core.k = some key → s.core.accv = true →
    (∀ e ∈ s.pending.take n, e.command ∉ [some 0x01, some 0x04, some 0x08]) →
    (∀ (m : Nat) (u : State), m ≤ n → run m s = .next u → u.core.err = false) →
    run n s = .next t →
    t.core.accv = true ∧ t.core.k = some key ∧
    ((∀ e ∈ s.pending.take n, e.command ≠ some 0x05) → t.core.acc = s.core.acc) ∧
    (∀ (m : Nat) (e : HostEvent), n = m + 1 → s.pending[m]? = some e → e.command = some 0x05 →
      ∃ u : State, run m s = .next u ∧ t.core.acc = Config.cipher key (blockXor u.core.acc t.core.din))

/-- OFFS.MSG computes OFFS: the expansion runs in 49 steps, the host reads exactly the masked value, and everything
but NONCE, DIN and DOUT is as before (R57, R82). That M is OFFS(k, N, V) is an inference the spec marks as its own,
from R81 (R82). -/
def Obligations.OffsetMessageComputesOffs : Prop :=
  ∀ (s : State) (key nonce v : Block) (rest : List HostEvent),
    s.core.err = false → s.core.k = some key → s.pending = words (offsMsg nonce v) ++ rest →
    run 49 s = .next {
      core := { s.core with nonce := nonce, din := v, dout := offs Config.cipher key nonce v }
      pending := rest
      reads := s.reads ++ (offs Config.cipher key nonce v).toList }

/-- The counter counts the blocks since CTRINIT, up to 65535 of them; the 65536th CTRNEXT latches CTRWRAP and leaves
the counter at index 65535 (R23, R69, R122, R141). The count is an inference the spec marks as its own, from R63 and
R71 (R23). -/
def Obligations.CounterCountsBlocks : Prop :=
  ∀ (s : State) (key : Block) (n : Nat) (rest : List HostEvent),
    s.core.err = false → s.core.k = some key → n ≤ 65535 →
    s.pending = .word 0xE202 :: (List.replicate n (.word 0xE203) ++ rest) →
    ∃ t : State, run (n + 1) s = .next t ∧ t.pending = rest ∧ t.core.err = false ∧ t.core.ctrv = true ∧
      t.core.ctr = ctrk s.core.nonce (BitVec.ofNat 16 n) ∧
      (n = 65535 → ∀ rest' : List HostEvent, rest = .word 0xE203 :: rest' →
        step t = .next { t with pending := rest', core := { t.core with
          err := true, errcode := 0x05, errcmd := 0x03 } })
end

