-- ==== Sys2Proof/Laws/Decode.lean ====
section
/-! SUPPORT. A T16 word and its fields as numbers: no bit is lost in packing or unpacking (R44). -/

namespace Sys2Proof

theorem packWord_toNat (w : Bool) (off : Offset) (d : Byte) :
    (packWord w off d).toNat = 32768 * w.toNat + 256 * off.toNat + d.toNat := by
  unfold packWord
  rw [BitVec.toNat_append, BitVec.toNat_append, ← Nat.shiftLeft_add_eq_or_of_lt off.isLt,
    ← Nat.shiftLeft_add_eq_or_of_lt d.isLt, BitVec.toNat_ofBool]
  simp only [Nat.shiftLeft_eq]
  omega

theorem isWriteWord_eq (t : T16) : isWriteWord t = decide (32768 ≤ t.toNat) := by
  have h := t.isLt
  simp only [isWriteWord, BitVec.getLsbD, Nat.testBit, Nat.shiftRight_eq_div_pow, Nat.and_comm 1, Nat.and_one_is_mod]
  by_cases h1 : 32768 ≤ t.toNat <;> simp [h1] <;> omega

theorem offField_toNat (t : T16) : (offField t).toNat = t.toNat / 256 % 128 := by
  simp [offField, BitVec.extractLsb'_toNat, Nat.shiftRight_eq_div_pow]

theorem dataField_toNat (t : T16) : (dataField t).toNat = t.toNat % 256 := by
  simp [dataField, BitVec.extractLsb'_toNat]

@[simp] theorem isWriteWord_packWord (w : Bool) (off : Offset) (d : Byte) : isWriteWord (packWord w off d) = w := by
  have h1 := off.isLt
  have h2 := d.isLt
  rw [isWriteWord_eq, packWord_toNat]
  cases w <;> simp only [decide_eq_false_iff_not, decide_eq_true_eq, Bool.toNat_false, Bool.toNat_true] <;> omega

@[simp] theorem offField_packWord (w : Bool) (off : Offset) (d : Byte) : offField (packWord w off d) = off := by
  have h2 := d.isLt
  apply BitVec.eq_of_toNat_eq
  rw [offField_toNat, packWord_toNat]
  omega

@[simp] theorem dataField_packWord (w : Bool) (off : Offset) (d : Byte) : dataField (packWord w off d) = d := by
  apply BitVec.eq_of_toNat_eq
  rw [dataField_toNat, packWord_toNat]
  omega

/-- A word is packed from its own fields. -/
theorem packWord_fields (t : T16) : packWord (isWriteWord t) (offField t) (dataField t) = t := by
  have h := t.isLt
  apply BitVec.eq_of_toNat_eq
  rw [packWord_toNat, offField_toNat, dataField_toNat, isWriteWord_eq]
  by_cases h1 : 32768 ≤ t.toNat <;> simp only [h1, decide_true, decide_false, Bool.toNat_true, Bool.toNat_false] <;> omega

end Sys2Proof
end

