-- ==== Sys2Proof/Laws/Messages.lean ====
section
/-! SUPPORT. Where the message level has a value, and that it has none elsewhere (R54, R59, R67; log 12). -/

namespace Sys2Proof.Machine

variable {E : Cipher} {k nonce : Block} {x : List Byte}

theorem ks_of_le (h : x.length / 16 ≤ 65535) :
    ks E k nonce x = some (blocksBytes (ksFrom E k nonce 0 (wholeBlocks x))) := if_pos h

theorem ks_of_gt (h : 65535 < x.length / 16) : ks E k nonce x = none := if_neg (Nat.not_le.mpr h)

theorem hashTag_of_le (h : x.length ≤ 65535) :
    hashTag E k nonce x = some (hashChain E k (E k (ctrh nonce (BitVec.ofNat 16 x.length))) (wholeBlocks x)) := if_pos h

theorem hashTag_of_gt (h : 65535 < x.length) : hashTag E k nonce x = none := if_neg (Nat.not_le.mpr h)

theorem ksMsg_of_le (h : x.length / 16 ≤ 65535) :
    ksMsg nonce x = some (wr16 .nonce nonce ++ encode .ctrinit ::
      (wholeBlocks x).flatMap fun b => wr16 .din b ++ encode .ctrnext :: rd16 .dout) := if_pos h

theorem ksMsg_of_gt (h : 65535 < x.length / 16) : ksMsg nonce x = none := if_neg (Nat.not_le.mpr h)

theorem hashMsg_of_le (h : x.length ≤ 65535) :
    hashMsg nonce x = some (wr16 .nonce nonce ++ setLen (BitVec.ofNat 16 x.length) ++ encode .hashinit ::
      ((wholeBlocks x).flatMap fun b => wr16 .din b ++ [encode .hashupd]) ++ rd16 .acc) := if_pos h

theorem hashMsg_of_gt (h : 65535 < x.length) : hashMsg nonce x = none := if_neg (Nat.not_le.mpr h)

end Sys2Proof.Machine
end

