-- ==== Sys2Proof/Laws/Operands.lean ====
section
/-! SUPPORT. What the byte-order helpers, the block operators and the location map compute. -/

namespace Sys2Proof.Machine

/-! ### Bytes of 16-bit numbers (R64 (c)) -/

@[simp] theorem hi8_be16 (h l : Byte) : hi8 (be16 h l) = h := by
  apply BitVec.eq_of_toNat_eq
  simp only [hi8, be16, BitVec.extractLsb'_toNat, BitVec.toNat_append]
  rw [← Nat.shiftLeft_add_eq_or_of_lt (by omega)]
  simp only [Nat.shiftLeft_eq, Nat.shiftRight_eq_div_pow]
  omega

@[simp] theorem lo8_be16 (h l : Byte) : lo8 (be16 h l) = l := by
  apply BitVec.eq_of_toNat_eq
  simp only [lo8, be16, BitVec.extractLsb'_toNat, BitVec.toNat_append, Nat.shiftRight_zero]
  rw [← Nat.shiftLeft_add_eq_or_of_lt (by omega)]
  simp only [Nat.shiftLeft_eq]
  omega

@[simp] theorem be16_hi8_lo8 (n : Word16) : be16 (hi8 n) (lo8 n) = n := by
  apply BitVec.eq_of_toNat_eq
  simp only [lo8, hi8, be16, BitVec.extractLsb'_toNat, BitVec.toNat_append, Nat.shiftRight_zero]
  rw [← Nat.shiftLeft_add_eq_or_of_lt (by omega)]
  simp only [Nat.shiftLeft_eq, Nat.shiftRight_eq_div_pow]
  omega

theorem hi8_toNat (n : Word16) : (hi8 n).toNat = n.toNat / 256 := by
  simp only [hi8, BitVec.extractLsb'_toNat, Nat.shiftRight_eq_div_pow]; omega

theorem lo8_toNat (n : Word16) : (lo8 n).toNat = n.toNat % 256 := by
  simp [lo8, BitVec.extractLsb'_toNat]

/-! ### Blocks -/

@[simp] theorem blockXor_getElem (a b : Block) (j : Nat) (h : j < 16) : (blockXor a b)[j] = a[j] ^^^ b[j] := by
  simp [blockXor]

/-- The pad cancels (R64 (b)). -/
@[simp] theorem blockXor_cancel (a b : Block) : blockXor a (blockXor a b) = b := by
  ext j h : 1
  rw [blockXor_getElem _ _ _ h, blockXor_getElem _ _ _ h, ← BitVec.xor_assoc]
  simp

/-- A counter block carries its tag, the nonce's first 13 bytes and the number, high byte first (R50, R51). -/
theorem counterBlock_getElem (tag : Byte) (nonce : Block) (n : Word16) (j : Nat) (h : j < 16) :
    (counterBlock tag nonce n)[j] =
      if j = 0 then tag else if j = 14 then hi8 n else if j = 15 then lo8 n else nonce[j - 1] := by
  interval_cases j <;> rfl

@[simp] theorem counterBlock_tag (tag : Byte) (nonce : Block) (n : Word16) :
    (counterBlock tag nonce n)[0] = tag := rfl
@[simp] theorem counterBlock_hi (tag : Byte) (nonce : Block) (n : Word16) :
    (counterBlock tag nonce n)[14] = hi8 n := rfl
@[simp] theorem counterBlock_lo (tag : Byte) (nonce : Block) (n : Word16) :
    (counterBlock tag nonce n)[15] = lo8 n := rfl

/-- What an increment can answer (R61, R62). -/
theorem inc_cases (b : Block) :
    (b[15] ≠ 0xFF ∧ inc b = some (b.set 15 (b[15] + 1))) ∨
    (b[15] = 0xFF ∧ b[14] ≠ 0xFF ∧ inc b = some ((b.set 15 0x00).set 14 (b[14] + 1))) ∨
    (b[15] = 0xFF ∧ b[14] = 0xFF ∧ inc b = none) := by
  unfold inc
  split
  · rename_i h; exact .inl ⟨h, rfl⟩
  · rename_i h
    split
    · rename_i h'; exact .inr (.inl ⟨not_not.mp h, h', rfl⟩)
    · rename_i h'; exact .inr (.inr ⟨not_not.mp h, not_not.mp h', rfl⟩)

/-! ### Locations -/

/-- The offset of byte `i` of a register selects that byte (R33). -/
@[simp] theorem locate_offOf (r : Reg16) (i : Fin 16) : locate (offOf r i) = .byte r i := by
  revert i; cases r <;> decide

@[simp] theorem locate_lenHi : locate 0x60#7 = .lenHi := by decide
@[simp] theorem locate_lenLo : locate 0x61#7 = .lenLo := by decide
@[simp] theorem locate_cmd : locate 0x62#7 = .cmd := by decide
@[simp] theorem locate_status : locate 0x63#7 = .status := by decide
@[simp] theorem locate_errcode : locate 0x64#7 = .errcode := by decide
@[simp] theorem locate_errcmd : locate 0x65#7 = .errcmd := by decide

/-- Only offset 0x62 is CMD (R19). -/
theorem locate_eq_cmd (off : Offset) : locate off = .cmd ↔ off = 0x62 := by
  revert off; decide

end Sys2Proof.Machine
end

