-- ==== Sys2Proof/Laws/State.lean ====
section
/-! SUPPORT. One lemma per field per named update of the state, each true by `rfl`. -/

namespace Sys2Proof.Machine

/-! ### The machine's updates -/

@[simp] theorem State.onCore_core (f : CoreState → CoreState) (s : State) : (s.onCore f).core = f s.core := rfl
@[simp] theorem State.onCore_pending (f : CoreState → CoreState) (s : State) : (s.onCore f).pending = s.pending := rfl
@[simp] theorem State.onCore_reads (f : CoreState → CoreState) (s : State) : (s.onCore f).reads = s.reads := rfl
@[simp] theorem State.bindRead_core (v : Byte) (s : State) : (s.bindRead v).core = s.core := rfl
@[simp] theorem State.bindRead_pending (v : Byte) (s : State) : (s.bindRead v).pending = s.pending := rfl
@[simp] theorem State.bindRead_reads (v : Byte) (s : State) : (s.bindRead v).reads = s.reads ++ [v] := rfl
@[simp] theorem State.deliver_core (e : HostEvent) (s : State) : (s.deliver e).core = s.core := rfl
@[simp] theorem State.deliver_pending (e : HostEvent) (s : State) : (s.deliver e).pending = e :: s.pending := rfl
@[simp] theorem State.deliver_reads (e : HostEvent) (s : State) : (s.deliver e).reads = s.reads := rfl
@[simp] theorem platformReset_core (s : State) : (platformReset s).core = CoreState.reset := rfl
@[simp] theorem platformReset_pending (s : State) : (platformReset s).pending = s.pending := rfl
@[simp] theorem platformReset_reads (s : State) : (platformReset s).reads = s.reads := rfl

/-! ### The error latch is set (R116) -/

@[simp] theorem raise_key (e : Cause) (b : Byte) (m : CoreState) : (raise e b m).key = m.key := rfl
@[simp] theorem raise_nonce (e : Cause) (b : Byte) (m : CoreState) : (raise e b m).nonce = m.nonce := rfl
@[simp] theorem raise_din (e : Cause) (b : Byte) (m : CoreState) : (raise e b m).din = m.din := rfl
@[simp] theorem raise_dout (e : Cause) (b : Byte) (m : CoreState) : (raise e b m).dout = m.dout := rfl
@[simp] theorem raise_len (e : Cause) (b : Byte) (m : CoreState) : (raise e b m).len = m.len := rfl
@[simp] theorem raise_ctr (e : Cause) (b : Byte) (m : CoreState) : (raise e b m).ctr = m.ctr := rfl
@[simp] theorem raise_acc (e : Cause) (b : Byte) (m : CoreState) : (raise e b m).acc = m.acc := rfl
@[simp] theorem raise_k (e : Cause) (b : Byte) (m : CoreState) : (raise e b m).k = m.k := rfl
@[simp] theorem raise_ctrv (e : Cause) (b : Byte) (m : CoreState) : (raise e b m).ctrv = m.ctrv := rfl
@[simp] theorem raise_accv (e : Cause) (b : Byte) (m : CoreState) : (raise e b m).accv = m.accv := rfl
@[simp] theorem raise_err (e : Cause) (b : Byte) (m : CoreState) : (raise e b m).err = true := rfl
@[simp] theorem raise_errcode (e : Cause) (b : Byte) (m : CoreState) : (raise e b m).errcode = e.code := rfl
@[simp] theorem raise_errcmd (e : Cause) (b : Byte) (m : CoreState) : (raise e b m).errcmd = b := rfl

/-! ### The error latch is cleared (R125) -/

@[simp] theorem clearLatch_key (m : CoreState) : (clearLatch m).key = m.key := rfl
@[simp] theorem clearLatch_nonce (m : CoreState) : (clearLatch m).nonce = m.nonce := rfl
@[simp] theorem clearLatch_din (m : CoreState) : (clearLatch m).din = m.din := rfl
@[simp] theorem clearLatch_dout (m : CoreState) : (clearLatch m).dout = m.dout := rfl
@[simp] theorem clearLatch_len (m : CoreState) : (clearLatch m).len = m.len := rfl
@[simp] theorem clearLatch_ctr (m : CoreState) : (clearLatch m).ctr = m.ctr := rfl
@[simp] theorem clearLatch_acc (m : CoreState) : (clearLatch m).acc = m.acc := rfl
@[simp] theorem clearLatch_k (m : CoreState) : (clearLatch m).k = m.k := rfl
@[simp] theorem clearLatch_ctrv (m : CoreState) : (clearLatch m).ctrv = m.ctrv := rfl
@[simp] theorem clearLatch_accv (m : CoreState) : (clearLatch m).accv = m.accv := rfl
@[simp] theorem clearLatch_err (m : CoreState) : (clearLatch m).err = false := rfl
@[simp] theorem clearLatch_errcode (m : CoreState) : (clearLatch m).errcode = 0x00 := rfl
@[simp] theorem clearLatch_errcmd (m : CoreState) : (clearLatch m).errcmd = 0x00 := rfl

/-! ### The collaborator's key is replaced (R86) -/

@[simp] theorem setKey_key (b : Block) (m : CoreState) : (setKey b m).key = m.key := rfl
@[simp] theorem setKey_nonce (b : Block) (m : CoreState) : (setKey b m).nonce = m.nonce := rfl
@[simp] theorem setKey_din (b : Block) (m : CoreState) : (setKey b m).din = m.din := rfl
@[simp] theorem setKey_dout (b : Block) (m : CoreState) : (setKey b m).dout = m.dout := rfl
@[simp] theorem setKey_len (b : Block) (m : CoreState) : (setKey b m).len = m.len := rfl
@[simp] theorem setKey_ctr (b : Block) (m : CoreState) : (setKey b m).ctr = m.ctr := rfl
@[simp] theorem setKey_acc (b : Block) (m : CoreState) : (setKey b m).acc = m.acc := rfl
@[simp] theorem setKey_k (b : Block) (m : CoreState) : (setKey b m).k = some b := rfl
@[simp] theorem setKey_ctrv (b : Block) (m : CoreState) : (setKey b m).ctrv = m.ctrv := rfl
@[simp] theorem setKey_accv (b : Block) (m : CoreState) : (setKey b m).accv = m.accv := rfl
@[simp] theorem setKey_err (b : Block) (m : CoreState) : (setKey b m).err = m.err := rfl
@[simp] theorem setKey_errcode (b : Block) (m : CoreState) : (setKey b m).errcode = m.errcode := rfl
@[simp] theorem setKey_errcmd (b : Block) (m : CoreState) : (setKey b m).errcmd = m.errcmd := rfl

/-! ### Reset (R29) -/

@[simp] theorem CoreState.reset_key : CoreState.reset.key = zeroBlock := rfl
@[simp] theorem CoreState.reset_nonce : CoreState.reset.nonce = zeroBlock := rfl
@[simp] theorem CoreState.reset_din : CoreState.reset.din = zeroBlock := rfl
@[simp] theorem CoreState.reset_dout : CoreState.reset.dout = zeroBlock := rfl
@[simp] theorem CoreState.reset_len : CoreState.reset.len = 0 := rfl
@[simp] theorem CoreState.reset_ctr : CoreState.reset.ctr = zeroBlock := rfl
@[simp] theorem CoreState.reset_acc : CoreState.reset.acc = zeroBlock := rfl
@[simp] theorem CoreState.reset_k : CoreState.reset.k = none := rfl
@[simp] theorem CoreState.reset_ctrv : CoreState.reset.ctrv = false := rfl
@[simp] theorem CoreState.reset_accv : CoreState.reset.accv = false := rfl
@[simp] theorem CoreState.reset_err : CoreState.reset.err = false := rfl
@[simp] theorem CoreState.reset_errcode : CoreState.reset.errcode = 0x00 := rfl
@[simp] theorem CoreState.reset_errcmd : CoreState.reset.errcmd = 0x00 := rfl
@[simp] theorem State.reset_core : State.reset.core = CoreState.reset := rfl
@[simp] theorem State.reset_pending : State.reset.pending = [] := rfl
@[simp] theorem State.reset_reads : State.reset.reads = [] := rfl
@[simp] theorem resetCore_eq (m : CoreState) : resetCore m = CoreState.reset := rfl

end Sys2Proof.Machine
end

