-- ==== Sys2Proof/Laws/Ops.lean ====
section
/-! SUPPORT. What each shared operation, each command and one step can do, said once. -/

namespace Sys2Proof.Machine

/-! ### Storing into the window -/

/-- A store changes at most KEY, NONCE, DIN and LEN (R83). -/
theorem storeLoc_frame (d : Byte) (m : CoreState) (l : Loc) :
    ∃ key nonce din len, storeLoc d m l = { m with key := key, nonce := nonce, din := din, len := len } := by
  cases l with
  | byte r i => cases r <;> exact ⟨_, _, _, _, rfl⟩
  | _ => exact ⟨_, _, _, _, rfl⟩

/-- A write away from CMD is a store. -/
theorem memWrite_of_ne_cmd (E : Cipher) (off : Offset) (d : Byte) (m : CoreState) (h : off ≠ 0x62) :
    memWrite E off d m = storeLoc d m (locate off) := by
  have h' : locate off ≠ .cmd := fun e => h ((locate_eq_cmd off).mp e)
  unfold memWrite
  split
  · contradiction
  · rfl

/-- A write to CMD executes the command byte (R85). -/
@[simp] theorem memWrite_cmd (E : Cipher) (d : Byte) (m : CoreState) : memWrite E 0x62#7 d m = runCommand E d m := by
  simp [memWrite]

/-! ### Commands: every outcome -/

theorem cmdSetkey_cases (m : CoreState) :
    (m.err = true ∧ cmdSetkey m = m) ∨
    (m.err = false ∧
      cmdSetkey m = { m with k := some m.key, key := zeroBlock, ctrv := false, accv := false }) := by
  unfold cmdSetkey setKey; cases h : m.err <;> simp

theorem cmdCtrinit_cases (m : CoreState) :
    (m.err = true ∧ cmdCtrinit m = m) ∨
    (m.err = false ∧ cmdCtrinit m = { m with ctr := ctr0 m.nonce, ctrv := true }) := by
  unfold cmdCtrinit; cases h : m.err <;> simp

theorem cmdCtrnext_cases (E : Cipher) (m : CoreState) :
    (m.err = true ∧ cmdCtrnext E m = m) ∨
    (m.err = false ∧ m.k = none ∧ cmdCtrnext E m = raise .nokey opCtrnext m) ∨
    (m.err = false ∧ m.k ≠ none ∧ m.ctrv = false ∧ cmdCtrnext E m = raise .noctr opCtrnext m) ∨
    (m.err = false ∧ m.k ≠ none ∧ m.ctrv = true ∧ inc m.ctr = none ∧
      cmdCtrnext E m = raise .ctrwrap opCtrnext m) ∨
    (∃ key b, m.err = false ∧ m.k = some key ∧ m.ctrv = true ∧ inc m.ctr = some b ∧
      cmdCtrnext E m = { m with ctr := b, dout := blockXor (E key b) m.din }) := by
  unfold cmdCtrnext encryptBlock
  cases h : m.err <;> cases hk : m.k <;> cases hv : m.ctrv <;> cases hi : inc m.ctr <;> simp

theorem cmdHashinit_cases (E : Cipher) (m : CoreState) :
    (m.err = true ∧ cmdHashinit E m = m) ∨
    (m.err = false ∧ m.k = none ∧ cmdHashinit E m = raise .nokey opHashinit m) ∨
    (∃ key, m.err = false ∧ m.k = some key ∧
      cmdHashinit E m = { m with acc := E key (ctrh m.nonce m.len), accv := true }) := by
  unfold cmdHashinit encryptBlock
  cases h : m.err <;> cases hk : m.k <;> simp

theorem cmdHashupd_cases (E : Cipher) (m : CoreState) :
    (m.err = true ∧ cmdHashupd E m = m) ∨
    (m.err = false ∧ m.k = none ∧ cmdHashupd E m = raise .nokey opHashupd m) ∨
    (m.err = false ∧ m.k ≠ none ∧ m.accv = false ∧ cmdHashupd E m = raise .noacc opHashupd m) ∨
    (∃ key, m.err = false ∧ m.k = some key ∧ m.accv = true ∧
      cmdHashupd E m = { m with acc := E key (blockXor m.acc m.din) }) := by
  unfold cmdHashupd encryptBlock
  cases h : m.err <;> cases hk : m.k <;> cases hv : m.accv <;> simp

theorem cmdMask_cases (E : Cipher) (m : CoreState) :
    (m.err = true ∧ cmdMask E m = m) ∨
    (m.err = false ∧ m.k = none ∧ cmdMask E m = raise .nokey opOffset m) ∨
    (∃ key, m.err = false ∧ m.k = some key ∧
      cmdMask E m = { m with dout := blockXor (E key (ctr0 m.nonce)) m.din }) := by
  unfold cmdMask encryptBlock
  cases h : m.err <;> cases hk : m.k <;> simp

/-- Everything a command byte can do: it is one of the eight commands, it is ignored by a locked CORE, or it latches
ILLCMD (R85). -/
theorem runCommand_cases (E : Cipher) (b : Byte) (m : CoreState) :
    (b = opSreset ∧ runCommand E b m = CoreState.reset) ∨
    (b = opClrerr ∧ runCommand E b m = clearLatch m) ∨
    (m.err = true ∧ b ≠ opSreset ∧ b ≠ opClrerr ∧ runCommand E b m = m) ∨
    (m.err = false ∧ b = opSetkey ∧ runCommand E b m = cmdSetkey m) ∨
    (m.err = false ∧ b = opCtrinit ∧ runCommand E b m = cmdCtrinit m) ∨
    (m.err = false ∧ b = opCtrnext ∧ runCommand E b m = cmdCtrnext E m) ∨
    (m.err = false ∧ b = opHashinit ∧ runCommand E b m = cmdHashinit E m) ∨
    (m.err = false ∧ b = opHashupd ∧ runCommand E b m = cmdHashupd E m) ∨
    (m.err = false ∧ b = opOffset ∧ runCommand E b m = cmdMask E m) ∨
    (m.err = false ∧ (b = 0x00 ∨ 0x09 ≤ b.toNat) ∧ runCommand E b m = raise .illcmd b m) := by
  by_cases h8 : b = opSreset
  · exact .inl ⟨h8, by simp [runCommand, h8, cmdSreset]⟩
  by_cases h7 : b = opClrerr
  · exact .inr (.inl ⟨h7, by simp [runCommand, h7, cmdClrerr]⟩)
  cases he : m.err with
  | true =>
    refine .inr (.inr (.inl ⟨rfl, h8, h7, ?_⟩))
    simp only [runCommand, if_neg h8, if_neg h7, he, if_true]
  | false =>
    by_cases h1 : b = opSetkey
    · subst h1; simp [runCommand, he]
    by_cases h2 : b = opCtrinit
    · subst h2; simp [runCommand, he]
    by_cases h3 : b = opCtrnext
    · subst h3; simp [runCommand, he]
    by_cases h4 : b = opHashinit
    · subst h4; simp [runCommand, he]
    by_cases h5 : b = opHashupd
    · subst h5; simp [runCommand, he]
    by_cases h6 : b = opOffset
    · subst h6; simp [runCommand, he]
    have hr : b = 0x00 ∨ 0x09 ≤ b.toNat := by
      clear he; revert h1 h2 h3 h4 h5 h6 h7 h8; revert b; decide
    have hrun : runCommand E b m = raise .illcmd b m := by
      simp only [runCommand, if_neg h8, if_neg h7, he, if_neg h1, if_neg h2, if_neg h3, if_neg h4, if_neg h5,
        if_neg h6, Bool.false_eq_true, if_false]
    exact .inr (.inr (.inr (.inr (.inr (.inr (.inr (.inr (.inr ⟨rfl, hr, hrun⟩))))))))

/-! ### The port and the step -/

@[simp] theorem takeEvent_nil (m : CoreState) (r : List Byte) : takeEvent ⟨m, [], r⟩ = none := rfl
@[simp] theorem takeEvent_cons (m : CoreState) (e : HostEvent) (es : List HostEvent) (r : List Byte) :
    takeEvent ⟨m, e :: es, r⟩ = some (e, ⟨m, es, r⟩) := rfl

/-- Every outcome of one step. -/
theorem step_cases (s : State) :
    (s.pending = [] ∧ step s = .next s) ∨
    (∃ w rest, s.pending = .word w :: rest ∧ step s = exec (decode w) { s with pending := rest }) ∨
    (∃ a n kind w rest, s.pending = .access a n kind :: rest ∧ accessWord a n kind = .ok w ∧
      step s = exec (decode w) { s with pending := rest }) ∨
    (∃ a n kind r rest, s.pending = .access a n kind :: rest ∧ accessWord a n kind = .error r ∧
      step s = .refused r) ∨
    (∃ rest, s.pending = .reset :: rest ∧ step s = .next { s with core := CoreState.reset, pending := rest }) := by
  obtain ⟨m, p, r⟩ := s
  cases p with
  | nil => exact .inl ⟨rfl, rfl⟩
  | cons e rest =>
    cases e with
    | word w => exact .inr (.inl ⟨w, rest, rfl, rfl⟩)
    | access a n kind =>
      cases h : accessWord a n kind with
      | ok w => exact .inr (.inr (.inl ⟨a, n, kind, w, rest, rfl, h, by simp [step, h]⟩))
      | error e => exact .inr (.inr (.inr (.inl ⟨a, n, kind, e, rest, rfl, h, by simp [step, h]⟩)))
    | reset => exact .inr (.inr (.inr (.inr ⟨rest, rfl, rfl⟩)))

/-- The outcome of every instruction is a next state: its own operation on the CORE, and for a read one more byte
bound by the host. -/
theorem exec_next (i : Instr) (s : State) :
    ∃ t, exec i s = .next t ∧ t.pending = s.pending := by
  cases i <;> exact ⟨_, rfl, rfl⟩

end Sys2Proof.Machine
end

