-- ==== Sys2Proof/Laws/PerInstr.lean ====
section
/-! SUPPORT. Facts about every instruction as syntax, one lemma per constructor. -/

namespace Sys2Proof.Laws

/-- The write bit of T16 (R44): only a read has bit 15 of its word clear. -/
def WriteBit.Statement (i : Instr) : Prop :=
  (encode i).getLsbD 15 = match i with
    | .rd _ => false
    | .wr _ _ => true
    | .setkey => true
    | .ctrinit => true
    | .ctrnext => true
    | .hashinit => true
    | .hashupd => true
    | .offset => true
    | .clrerr => true
    | .sreset => true

theorem WriteBit.wr (off : Offset) (data : Byte) : WriteBit.Statement (.wr off data) := by
  exact isWriteWord_packWord _ _ _
theorem WriteBit.rd (off : Offset) : WriteBit.Statement (.rd off) := by
  exact isWriteWord_packWord _ _ _
theorem WriteBit.setkey : WriteBit.Statement .setkey := by simp only [WriteBit.Statement]; decide
theorem WriteBit.ctrinit : WriteBit.Statement .ctrinit := by simp only [WriteBit.Statement]; decide
theorem WriteBit.ctrnext : WriteBit.Statement .ctrnext := by simp only [WriteBit.Statement]; decide
theorem WriteBit.hashinit : WriteBit.Statement .hashinit := by simp only [WriteBit.Statement]; decide
theorem WriteBit.hashupd : WriteBit.Statement .hashupd := by simp only [WriteBit.Statement]; decide
theorem WriteBit.offset : WriteBit.Statement .offset := by simp only [WriteBit.Statement]; decide
theorem WriteBit.clrerr : WriteBit.Statement .clrerr := by simp only [WriteBit.Statement]; decide
theorem WriteBit.sreset : WriteBit.Statement .sreset := by simp only [WriteBit.Statement]; decide

end Sys2Proof.Laws
end

