-- ==== Sys2Proof/Laws/Run.lean ====
section
/-! SUPPORT. Runs of several steps, and the host events of a list of words. -/

namespace Sys2Proof.Machine

@[simp] theorem run_zero (s : State) : run 0 s = .next s := rfl

theorem run_succ (n : Nat) (s : State) :
    run (n + 1) s = match step s with
      | .next t => run n t
      | .fault r => .fault r
      | .refused r => .refused r := rfl

/-- The runs of statements are the host's runs of the machine. -/
theorem run_eq_core_run (n : Nat) (s : State) : run n s = Host.Core.run Sys2Proof.core n s := by
  induction n generalizing s with
  | zero => rfl
  | succ n ih =>
    have h := Host.Core.run.eq_2 Sys2Proof.core s n
    refine Eq.trans ?_ h.symm
    change (match step s with | .next t => run n t | .fault r => .fault r | .refused r => .refused r) = _
    cases hs : Sys2Proof.core.step s with
    | next t => rw [show step s = .next t from hs]; exact ih t
    | fault r => rw [show step s = .fault r from hs]; rfl
    | refused r => rw [show step s = .refused r from hs]; rfl

theorem run_succ_of_next (n : Nat) (s t : State) (h : step s = .next t) : run (n + 1) s = run n t := by
  rw [run_succ, h]

/-- A run of `m + n` steps is a run of `m` steps and then one of `n`. -/
theorem run_add (m n : Nat) (s t : State) (h : run m s = .next t) : run (m + n) s = run n t := by
  induction m generalizing s with
  | zero => cases h; simp
  | succ m ih =>
    rw [Nat.succ_add, run_succ]
    rw [run_succ] at h
    split <;> rename_i hs <;> rw [hs] at h
    · exact ih _ h
    · cases h
    · cases h

/-- One more step at the end of a run. -/
theorem run_last (n : Nat) (s t : State) (h : run (n + 1) s = .next t) :
    ∃ u, run n s = .next u ∧ step u = .next t := by
  induction n generalizing s with
  | zero =>
    rw [run_succ] at h
    split at h
    · exact ⟨s, rfl, h ▸ ‹_›⟩
    · cases h
    · cases h
  | succ n ih =>
    rw [run_succ] at h
    split at h
    · rename_i v hv
      obtain ⟨u, hu, ht⟩ := ih v h
      exact ⟨u, by rw [run_succ_of_next n s v hv, hu], ht⟩
    · cases h
    · cases h

/-- A step with an event pending performs the event's instruction on the state without the event; a refused access is
the one event that has none (R40, R133). -/
theorem step_event (s : State) (e : HostEvent) (rest : List HostEvent) (h : s.pending = e :: rest) :
    (∃ i, e.instr = some i ∧ step s = exec i { s with pending := rest }) ∨
    (∃ r, e.instr = none ∧ step s = .refused r) := by
  obtain ⟨m, p, v⟩ := s
  cases h
  cases e with
  | word w => exact .inl ⟨_, rfl, rfl⟩
  | access a n kind =>
    cases hw : accessWord a n kind with
    | ok w => exact .inl ⟨decode w, by simp [HostEvent.instr, hw], by simp [step, hw]⟩
    | error r => exact .inr ⟨r, by simp [HostEvent.instr, hw], by simp [step, hw]⟩
  | reset => exact .inl ⟨_, rfl, rfl⟩

@[simp] theorem words_nil : words [] = [] := rfl
@[simp] theorem words_cons (w : T16) (ws : List T16) : words (w :: ws) = .word w :: words ws := rfl
@[simp] theorem words_append (v w : List T16) : words (v ++ w) = words v ++ words w := List.map_append ..
@[simp] theorem words_length (ws : List T16) : (words ws).length = ws.length := List.length_map ..

end Sys2Proof.Machine
end

