-- ==== Sys2Proof/Tests/Slice0.lean ====
section
/-! SUPPORT. The model's own tests: expected values from spec/95_test_vectors.md and from the examples of the rules,
and for each statement with hypotheses a concrete state and operands that meet them. -/

namespace Sys2Proof.Tests

open Sys2Proof Sys2Proof.Machine

/-! ### Helpers -/

/-- A block written as 32 hex digits, byte 0 first (R11). -/
def hexBlock (n : Nat) : Block := Vector.ofFn fun j => BitVec.ofNat 8 (n / 256 ^ (15 - j.val))

/-- The test cipher TX of spec/95_test_vectors.md: `E(k, b)[j] = b[j] xor k[j]`. -/
def tx : Cipher := fun k b => Vector.ofFn fun j => b[j] ^^^ k[j]

/-- The test cipher TR: `E(k, b)[j] = b[(j + 1) mod 16] + k[j] + j`. -/
def tr : Cipher := fun k b =>
  Vector.ofFn fun j => b[(j.val + 1) % 16]'(Nat.mod_lt _ (by decide)) + k[j] + BitVec.ofNat 8 j.val

def k11 : Block := Vector.replicate 16 0x11
def n22 : Block := Vector.replicate 16 0x22
def c33 : Block := Vector.replicate 16 0x33
def nseq : Block := hexBlock 0xa0a1a2a3a4a5a6a7a8a9aaabacadaeaf

/-- Reset, then K11 loaded, NONCE = N22, DIN = C33, LEN = 16. -/
def keyed : CoreState := { CoreState.reset with k := some k11, nonce := n22, din := c33, len := 0x0010 }

/-- `keyed` after CTRINIT and with an accumulator. -/
def running : CoreState := { keyed with
  ctr := hexBlock 0x01222222222222222222222222220000, ctrv := true
  acc := hexBlock 0x28333333333333333333333333331101, accv := true }

/-- `running` at index 65534 and at the last index. -/
def nearTop : CoreState := { running with ctr := hexBlock 0x0122222222222222222222222222fffe }
def atTop : CoreState := { running with ctr := hexBlock 0x0122222222222222222222222222ffff }

/-- A CORE locked by a NOKEY of CTRNEXT (R89's example). -/
def locked : CoreState := { CoreState.reset with err := true, errcode := 0x02, errcmd := 0x03 }

/-- A CORE with nothing pending and nothing read. -/
def alone (m : CoreState) : State := ⟨m, [], []⟩

/-! ### Well-formedness: each ill-formed term is refused -/

theorem test_illformed_commands_refused :
    (Instr.wr 0x62 0x01).wellFormed = false ∧ (Instr.wr 0x62 0x02).wellFormed = false ∧
    (Instr.wr 0x62 0x03).wellFormed = false ∧ (Instr.wr 0x62 0x04).wellFormed = false ∧
    (Instr.wr 0x62 0x05).wellFormed = false ∧ (Instr.wr 0x62 0x06).wellFormed = false ∧
    (Instr.wr 0x62 0x07).wellFormed = false ∧ (Instr.wr 0x62 0x08).wellFormed = false := by decide
theorem test_wellformed_neighbours :
    (Instr.wr 0x62 0x00).wellFormed = true ∧ (Instr.wr 0x62 0x09).wellFormed = true ∧
    (Instr.wr 0x61 0x01).wellFormed = true ∧ (Instr.wr 0x63 0x08).wellFormed = true := by decide

/-! ### Decoding (words from R47, R53 and V51) -/

theorem test_decode_wr : decode 0b1001000000100010 = .wr 0x10 0x22 := by decide
theorem test_decode_wr_illegal_command : decode 0b1110001000001001 = .wr 0x62 0x09 := by decide
theorem test_decode_rd : decode 0b0101111100000000 = .rd 0x5F := by decide
theorem test_decode_rd_ignored_bits : decode 0b0011000010100101 = .rd 0x30 := by decide
theorem test_decode_setkey : decode 0b1110001000000001 = .setkey := by decide
theorem test_decode_ctrinit : decode 0b1110001000000010 = .ctrinit := by decide
theorem test_decode_ctrnext : decode 0b1110001000000011 = .ctrnext := by decide
theorem test_decode_hashinit : decode 0b1110001000000100 = .hashinit := by decide
theorem test_decode_hashupd : decode 0b1110001000000101 = .hashupd := by decide
theorem test_decode_offset : decode 0b1110001000000110 = .offset := by decide
theorem test_decode_clrerr : decode 0b1110001000000111 = .clrerr := by decide
theorem test_decode_sreset : decode 0b1110001000001000 = .sreset := by decide
theorem test_encode_examples :
    encode (.wr 0x10 0x22) = 0x9022 ∧ encode (.wr 0x61 0x10) = 0xE110 ∧ encode .hashinit = 0xE204 ∧
    encode (.rd 0x5F) = 0x5F00 ∧ encode (.rd 0x63) = 0x6300 := by decide
theorem test_decodeCommand_rejects :
    decodeCommand 0x00 = .error (.illegalCommand 0x00) ∧ decodeCommand 0x09 = .error (.illegalCommand 0x09) ∧
    decodeCommand 0xFF = .error (.illegalCommand 0xFF) := ⟨rfl, rfl, rfl⟩
theorem test_table_words :
    decodeTableWord 8 0x06 = some .offset ∧ decodeTableWord 16 0xE206 = some .offset ∧
    decodeTableWord 16 0x8000 = some (.wr 0x00 0x00) ∧ decodeTableWord 16 0x0000 = some (.rd 0x00) ∧
    decodeTableWord 24 0x0000 = none := by decide

/-! ### Counter blocks (V5, V9, V12 to V14) -/

theorem test_ctr0 : ctr0 nseq = hexBlock 0x01a0a1a2a3a4a5a6a7a8a9aaabac0000 := by decide
theorem test_ctrh : ctrh nseq 0x1234 = hexBlock 0x39a0a1a2a3a4a5a6a7a8a9aaabac1234 := by decide
theorem test_inc_carry :
    inc (hexBlock 0x01a0a1a2a3a4a5a6a7a8a9aaabac01ff) = some (hexBlock 0x01a0a1a2a3a4a5a6a7a8a9aaabac0200) := by
  decide
theorem test_inc_last :
    inc (hexBlock 0x01a0a1a2a3a4a5a6a7a8a9aaabacfffe) = some (hexBlock 0x01a0a1a2a3a4a5a6a7a8a9aaabacffff) := by
  decide
theorem test_inc_undefined : inc (hexBlock 0x01a0a1a2a3a4a5a6a7a8a9aaabacffff) = none := by decide

/-! ### Commands -/

/-- V46, V48. -/
theorem test_setkey : cmdSetkey { running with key := n22 } =
    { running with k := some n22, key := zeroBlock, ctrv := false, accv := false } := by decide
/-- V16. -/
theorem test_ctrinit : (cmdCtrinit { CoreState.reset with nonce := n22 }).ctr =
    hexBlock 0x01222222222222222222222222220000 := by decide
/-- V15: no key is needed. -/
theorem test_ctrinit_keyless : (cmdCtrinit CoreState.reset).status = 0x02 := by decide
/-- V20 under TX: index 1, not 0. -/
theorem test_ctrnext_tx : (cmdCtrnext tx running).dout = hexBlock 0x23000000000000000000000000002223 ∧
    (cmdCtrnext tx running).ctr = hexBlock 0x01222222222222222222222222220001 := by decide
/-- V20 under TR. -/
theorem test_ctrnext_tr : (cmdCtrnext tr running).dout = hexBlock 0x00070605040b0a09080f0e0d0c2d1312 := by decide
/-- R76's example, V31 under TR. -/
theorem test_hashinit : (cmdHashinit tx keyed).acc = hexBlock 0x28333333333333333333333333331101 ∧
    (cmdHashinit tr keyed).acc = hexBlock 0x333435363738393a3b3c3d3e3f1e2f59 ∧
    (cmdHashinit tx keyed).status = 0x05 := by decide
/-- R77's example (V32 under TX). -/
theorem test_hashupd_tx : (cmdHashupd tx running).acc = hexBlock 0x0a111111111111111111111111113323 := by decide
/-- V32 under TR. -/
theorem test_hashupd_tr :
    (cmdHashupd tr { running with acc := hexBlock 0x333435363738393a3b3c3d3e3f1e2f59 }).acc =
      hexBlock 0x1818181820202020282828284a3a8920 := by decide
/-- R82's example (V41 under TX). -/
theorem test_offset_tx : (cmdMask tx { running with din := hexBlock 0x0a111111111111111111111111113323 }).dout =
    hexBlock 0x1a222222222222222222222222222232 := by decide
/-- V41 under TR; CTR is untouched. -/
theorem test_offset_tr : cmdMask tr { running with din := hexBlock 0x1818181820202020282828284a3a8920 } =
    { running with din := hexBlock 0x1818181820202020282828284a3a8920
                   dout := hexBlock 0x2b2c2d2e1718191a1314151675249601 } := by decide
/-- R89's example. -/
theorem test_clrerr : cmdClrerr locked = CoreState.reset := by decide
/-- V54. -/
theorem test_sreset : cmdSreset { running with err := true, errcode := 0x01, errcmd := 0x80 } = CoreState.reset := by
  decide

/-! ### Errors and the lock (programs P4 and P6) -/

theorem test_nokey_before_noctr :
    runCommand tx 0x03 CoreState.reset = { CoreState.reset with err := true, errcode := 0x02, errcmd := 0x03 } := by
  decide
theorem test_locked_ignores : runCommand tx 0x02 locked = locked ∧ runCommand tx 0xFF locked = locked := by decide
theorem test_illegal_zero :
    runCommand tx 0x00 CoreState.reset = { CoreState.reset with err := true, errcode := 0x01, errcmd := 0x00 } := by
  decide
theorem test_noctr : runCommand tx 0x03 keyed = { keyed with err := true, errcode := 0x03, errcmd := 0x03 } := by
  decide
theorem test_noacc : runCommand tx 0x05 keyed = { keyed with err := true, errcode := 0x04, errcmd := 0x05 } := by
  decide
theorem test_ctrwrap :
    (runCommand tx 0x03 { running with ctr := hexBlock 0x01a0a1a2a3a4a5a6a7a8a9aaabacffff }).errcode = 0x05 := by
  decide

/-! ### Transactions -/

/-- R83's example; a store works while locked. -/
theorem test_wr : memWrite tx 0x22 0x33 locked = { locked with din := locked.din.set 2 0x33 } := by decide
/-- V49. -/
theorem test_wr_ignored : memWrite tx 0x30 0x55 running = running ∧ memWrite tx 0x40 0x55 running = running ∧
    memWrite tx 0x5F 0x55 running = running ∧ memWrite tx 0x63 0xFF running = running ∧
    memWrite tx 0x66 0x55 running = running ∧ memWrite tx 0x7F 0x55 running = running := by decide
theorem test_rd : memRead 0x63 running = 0x07 ∧ memRead 0x61 running = 0x10 ∧ memRead 0x2F running = 0x33 ∧
    memRead 0x50 running = 0x28 ∧ memRead 0x65 locked = 0x03 := by decide
/-- V46, V50. -/
theorem test_rd_zero : memRead 0x00 { running with key := n22 } = 0 ∧ memRead 0x62 running = 0 ∧
    memRead 0x66 running = 0 ∧ memRead 0x7F running = 0 := by decide

/-! ### The step -/

theorem test_fetch_runs_setkey : step (State.reset.withFetchWord 8 0x01) = exec .setkey State.reset := rfl
theorem test_fetch_runs_wr : step (State.reset.withFetchWord 16 0xA233) = exec (.wr 0x22 0x33) State.reset := rfl
theorem test_fetch_reads_status : step (State.reset.withFetchWord 16 0x6300) = .next ⟨CoreState.reset, [], [0x00]⟩ :=
  rfl

/-! ### The hypotheses of the statements can be met -/

theorem witness_DecodeEncodeRoundTrip :
    (Instr.wr 0x7F 0xFF).wellFormed = true ∧ (Instr.rd 0x00).wellFormed = true ∧ Instr.sreset.wellFormed = true := by
  decide
theorem witness_EveryWordDecodesCanonically : (0xE203 : T16).getLsbD 15 = true ∧ (0x30A5 : T16).getLsbD 15 = false := by
  decide
theorem witness_IncrementBytes :
    ¬(n22[14] = 0xFF ∧ n22[15] = 0xFF) ∧ n22[15] ≠ 0xFF ∧
    ¬((n22.set 15 0xFF)[14] = 0xFF ∧ (n22.set 15 0xFF)[15] = 0xFF) ∧ (n22.set 15 0xFF)[15] = 0xFF := by decide
theorem witness_IncrementAdvancesIndex : (0x0000 : Word16) ≠ 0xFFFF ∧ (0xFFFE : Word16) ≠ 0xFFFF := by decide
/-- Both ends of each range of offsets, and the single ones. -/
theorem witness_ReadReturnsWindowByte :
    (0x00 : Offset).toNat = (0 : Fin 16).val ∧ (0x0F : Offset).toNat = (15 : Fin 16).val ∧
    (0x10 : Offset).toNat = 0x10 + (0 : Fin 16).val ∧ (0x1F : Offset).toNat = 0x10 + (15 : Fin 16).val ∧
    (0x20 : Offset).toNat = 0x20 + (0 : Fin 16).val ∧ (0x2F : Offset).toNat = 0x20 + (15 : Fin 16).val ∧
    (0x30 : Offset).toNat = 0x30 + (0 : Fin 16).val ∧ (0x3F : Offset).toNat = 0x30 + (15 : Fin 16).val ∧
    (0x40 : Offset).toNat = 0x40 + (0 : Fin 16).val ∧ (0x4F : Offset).toNat = 0x40 + (15 : Fin 16).val ∧
    (0x50 : Offset).toNat = 0x50 + (0 : Fin 16).val ∧ (0x5F : Offset).toNat = 0x50 + (15 : Fin 16).val ∧
    0x66 ≤ (0x66 : Offset).toNat ∧ 0x66 ≤ (0x7F : Offset).toNat ∧
    (0x60 : Offset).toNat = 96 ∧ (0x65 : Offset).toNat = 101 := by decide
theorem witness_WriteStoresWindowByte :
    (0x30 ≤ (0x30 : Offset).toNat ∧ (0x30 : Offset).toNat < 0x60) ∧
    (0x30 ≤ (0x5F : Offset).toNat ∧ (0x5F : Offset).toNat < 0x60) ∧
    0x63 ≤ (0x63 : Offset).toNat ∧ 0x63 ≤ (0x7F : Offset).toNat := by decide
theorem witness_ReadBackAfterWrite :
    (0x10 : Offset) ≠ 0x62 ∧ (0x2F : Offset) ≠ 0x62 ∧ (0x61 : Offset) ≠ 0x62 ∧ (0x63 : Offset) ≠ 0x62 ∧
    (0x11 : Offset) ≠ 0x10 := by decide
theorem witness_RegisterAccessNeverErrs : (0x61 : Offset) ≠ 0x62 ∧ (0x63 : Offset) ≠ 0x62 := by decide
/-- SETKEY, CTRINIT: unlocked, and locked. -/
theorem witness_SetkeyResult : (alone running).core.err = false ∧ (alone locked).core.err = true := by decide
theorem witness_CtrinitResult : (alone CoreState.reset).core.err = false ∧ (alone locked).core.err = true := by decide
/-- One state for each clause of CTRNEXT. -/
theorem witness_CtrnextResult :
    locked.err = true ∧ (CoreState.reset.err = false ∧ CoreState.reset.k = none) ∧
    (keyed.err = false ∧ keyed.k = some k11 ∧ keyed.ctrv = false) ∧
    (running.err = false ∧ running.k = some k11 ∧ running.ctrv = true ∧
      ¬(running.ctr[14] = 0xFF ∧ running.ctr[15] = 0xFF)) ∧
    (nearTop.err = false ∧ nearTop.k = some k11 ∧ nearTop.ctrv = true ∧
      ¬(nearTop.ctr[14] = 0xFF ∧ nearTop.ctr[15] = 0xFF)) ∧
    (atTop.err = false ∧ atTop.k = some k11 ∧ atTop.ctrv = true ∧ atTop.ctr[14] = 0xFF ∧ atTop.ctr[15] = 0xFF) := by
  decide
theorem witness_HashinitResult :
    locked.err = true ∧ (CoreState.reset.err = false ∧ CoreState.reset.k = none) ∧
    (keyed.err = false ∧ keyed.k = some k11) := by decide
theorem witness_HashupdResult :
    locked.err = true ∧ (CoreState.reset.err = false ∧ CoreState.reset.k = none) ∧
    (keyed.err = false ∧ keyed.k = some k11 ∧ keyed.accv = false) ∧
    (running.err = false ∧ running.k = some k11 ∧ running.accv = true) := by decide
theorem witness_OffsetResult :
    locked.err = true ∧ (CoreState.reset.err = false ∧ CoreState.reset.k = none) ∧
    (keyed.err = false ∧ keyed.k = some k11) := by decide
/-- One byte for each clause of the dispatch, at the ends of its range. -/
theorem witness_CommandDispatch :
    ((0x06 : Byte) ≠ 0x08 ∧ (0x06 : Byte) ≠ 0x07 ∧ locked.err = true) ∧
    (0x09 ≤ (0x09 : Byte).toNat ∧ 0x09 ≤ (0xFF : Byte).toNat ∧ keyed.err = false) ∧
    (0x01 ≤ (0x01 : Byte).toNat ∧ (0x01 : Byte).toNat ≤ 0x06 ∧ opcodeOf .setkey = some 0x01) ∧
    (0x01 ≤ (0x06 : Byte).toNat ∧ (0x06 : Byte).toNat ≤ 0x06 ∧ opcodeOf .offset = some 0x06) := by decide
theorem witness_IllegalCommandLatches :
    (alone keyed).core.err = false ∧ ((0x00 : Byte) = 0x00 ∨ 0x09 ≤ (0x00 : Byte).toNat) ∧
    ((0x09 : Byte) = 0x00 ∨ 0x09 ≤ (0x09 : Byte).toNat) := by decide
theorem witness_NoKeyLatches : (alone CoreState.reset).core.err = false ∧ (alone CoreState.reset).core.k = none := by
  decide
theorem witness_NoCounterLatches : keyed.err = false ∧ keyed.k ≠ none ∧ keyed.ctrv = false := by decide
theorem witness_NoAccumulatorLatches : keyed.err = false ∧ keyed.k ≠ none ∧ keyed.accv = false := by decide
theorem witness_CounterWrapLatches :
    atTop.err = false ∧ atTop.k ≠ none ∧ atTop.ctrv = true ∧ atTop.ctr[14] = 0xFF ∧ atTop.ctr[15] = 0xFF := by decide
theorem witness_ErrorsArePrecise :
    exec .ctrnext (alone CoreState.reset) = .next (alone locked) ∧ (alone CoreState.reset).core.err = false ∧
    (alone locked).core.err = true := ⟨rfl, rfl, rfl⟩
/-- A locked CORE; a command byte that is ignored; a register write that is not. -/
theorem witness_LockedIgnoresCommands :
    (alone locked).core.err = true ∧ commandByte .setkey = some 0x01 ∧ commandByte (.wr 0x62 0xFF) = some 0xFF ∧
    exec (.wr 0x22 0x33) (alone { locked with err := false }) =
      .next (alone { locked with err := false, din := locked.din.set 2 0x33 }) :=
  ⟨rfl, rfl, rfl, by unfold exec execWr State.onCore alone; congr 2⟩
theorem witness_FirstErrorKept :
    let s : State := ⟨locked, [.word 0xE203, .word 0x9022], []⟩
    s.core.err = true ∧ (∀ e ∈ s.pending.take 1, HostEvent.mayClear e = false) ∧
    run 1 s = .next ⟨locked, [.word 0x9022], []⟩ := ⟨rfl, by decide, rfl⟩
theorem witness_NoErrorAtEndMeansNoneThroughout :
    let s : State := ⟨CoreState.reset, [.word 0x6300, .word 0x6200], []⟩
    (∀ e ∈ s.pending.take 2, HostEvent.mayClear e = false) ∧
    run 2 s = .next ⟨CoreState.reset, [], [0x00, 0x00]⟩ ∧ CoreState.reset.err = false := ⟨by decide, rfl, rfl⟩
/-- A command that fails sets ERR and writes ERRCODE and ERRCMD; CLRERR clears them. -/
theorem witness_OnlyListedWritersChange_latch :
    exec .ctrnext (alone CoreState.reset) = .next (alone locked) ∧ CoreState.reset.err = false ∧ locked.err = true ∧
    locked.errcode ≠ CoreState.reset.errcode ∧ locked.errcmd ≠ CoreState.reset.errcmd ∧
    exec .clrerr (alone locked) = .next (alone CoreState.reset) := ⟨rfl, rfl, rfl, by decide, by decide, rfl⟩
theorem witness_OnlyListedWritersChange :
    exec .setkey (alone { CoreState.reset with key := k11 }) =
      .next (alone { CoreState.reset with k := some k11 }) ∧
    ({ CoreState.reset with k := some k11 } : CoreState).k ≠ ({ CoreState.reset with key := k11 } : CoreState).k ∧
    ({ CoreState.reset with k := some k11 } : CoreState).key ≠
      ({ CoreState.reset with key := k11 } : CoreState).key := ⟨rfl, by decide, by decide⟩
/-- A write to NONCE after CTRINIT; and a CTRINIT. -/
theorem witness_CounterPrefixKept :
    exec (.wr 0x13 0x55) (alone running) = .next (alone { running with nonce := running.nonce.set 3 0x55 }) ∧
    commandByte (.wr 0x13 0x55) = none ∧
    exec .ctrinit (alone CoreState.reset) = .next (alone { CoreState.reset with ctr := ctr0 zeroBlock, ctrv := true }) ∧
    commandByte .ctrinit = some 0x02 ∧ (alone CoreState.reset).core.err = false :=
  ⟨by unfold exec execWr State.onCore alone; congr 2, rfl, rfl, rfl, rfl⟩
/-- Two machines with different keys that read alike. -/
theorem witness_KeyStaysHidden :
    sameToHost (alone running) (alone { running with k := some n22, key := c33 }) ∧
    commandByte .setkey ∉ [some 0x03, some 0x04, some 0x05, some 0x06] :=
  ⟨⟨rfl, rfl, rfl, rfl⟩, by decide⟩
theorem witness_NonceTailUnused :
    commandByte .hashinit = some 0x04 ∧
    (∀ j : Nat, (h : j < 13) → (((n22.set 13 0xaa).set 14 0xbb).set 15 0xcc)[j] = (alone keyed).core.nonce[j]) :=
  ⟨rfl, by decide⟩
theorem witness_StepRunsDecodedWord :
    (⟨keyed, [.word 0xE203], []⟩ : State).pending = .word 0xE203 :: [] ∧ decode 0xE203 = .ctrnext ∧
    Instr.ctrnext.wellFormed = true := by decide
theorem witness_IdleStepChangesNothing : (alone keyed).pending = [] := rfl
theorem witness_ResetInputEqualsSreset :
    (⟨running, [.reset, .word 0x6300], []⟩ : State).pending = .reset :: [.word 0x6300] := rfl
/-- A write at the first offset, a read at the last, a wide access, and the two addresses beside the window. -/
theorem witness_PlatformAccessIsTransaction :
    (⟨keyed, [.access (Config.base + (0x00 : Offset).toNat) 1 (.write 0x11)], []⟩ : State).pending =
      .access (Config.base + (0x00 : Offset).toNat) 1 (.write 0x11) :: [] ∧
    (⟨keyed, [.access (Config.base + (0x7F : Offset).toNat) 1 .read], []⟩ : State).pending =
      .access (Config.base + (0x7F : Offset).toNat) 1 .read :: [] ∧
    (⟨keyed, [.access Config.base 2 .read], []⟩ : State).pending = .access Config.base 2 .read :: [] ∧ 2 ≠ 1 ∧
    (⟨keyed, [.access (Config.base + 128) 1 .read], []⟩ : State).pending =
      .access (Config.base + 128) 1 .read :: [] ∧ Config.base + 128 ≤ Config.base + 128 :=
  ⟨rfl, rfl, rfl, by decide, rfl, Nat.le_refl _⟩
theorem witness_OrdinaryEventsNeverStop :
    ∀ e ∈ [HostEvent.word 0xE200, .access Config.base 1 .read, .access (Config.base + 0x7F) 1 (.write 0x55), .reset],
      HostEvent.isOrdinary e = true := by
  simp [HostEvent.isOrdinary]
/-- The invariant holds of a CORE with a key, a counter and an accumulator, and a step from it goes on. -/
theorem witness_EveryStepKeepsInvariant :
    CoreInv (⟨running, [.word 0xE207], []⟩ : State).core ∧ step ⟨running, [.word 0xE207], []⟩ = .next (alone running) :=
  ⟨⟨fun _ => rfl, fun _ => rfl, fun _ => ⟨rfl, rfl⟩, fun h => by cases h⟩, rfl⟩
theorem witness_StatusValues : CoreInv running :=
  ⟨fun _ => rfl, fun _ => rfl, fun _ => ⟨rfl, rfl⟩, fun h => by cases h⟩
theorem witness_EveryStepKeepsLatchExplained :
    latchExplained (⟨locked, [.word 0xE202], []⟩ : State).core ∧ locked.err = true ∧
    step ⟨locked, [.word 0xE202], []⟩ = .next (alone locked) :=
  ⟨fun _ => ⟨fun _ => rfl, fun h => absurd h (by decide), fun h => absurd h (by decide), fun h => absurd h (by decide)⟩,
    rfl, rfl⟩
theorem witness_KeystreamIsSelfInverse :
    (c33.toList.length % 16 = 0 ∧ c33.toList.length / 16 ≤ 65535) := by decide
/-- 20 bytes: one whole block, four bytes left out. -/
theorem witness_KeystreamBytes :
    (List.replicate 20 (0x33 : Byte)).length / 16 ≤ 65535 ∧ 0 < (List.replicate 20 (0x33 : Byte)).length / 16 := by
  decide
theorem witness_LoadKeyLoads :
    (⟨CoreState.reset, words (loadKey k11) ++ [], []⟩ : State).core.err = false ∧
    (⟨CoreState.reset, words (loadKey k11) ++ [], []⟩ : State).pending = words (loadKey k11) ++ [] := ⟨rfl, rfl⟩
theorem witness_KeystreamMessageComputesKs :
    c33.toList.length / 16 ≤ 65535 ∧ ∃ ws : List T16, ksMsg nseq c33.toList = some ws ∧
    let s : State := ⟨keyed, words ws ++ [.word 0x6300], []⟩
    s.core.err = false ∧ s.core.k = some k11 ∧ s.pending = words ws ++ [.word 0x6300] :=
  ⟨by decide, _, rfl, rfl, rfl, rfl⟩
theorem witness_HashMessageComputesHash :
    c33.toList.length ≤ 65535 ∧ ∃ ws : List T16, hashMsg nseq c33.toList = some ws ∧
    let s : State := ⟨keyed, words ws ++ [], []⟩
    s.core.err = false ∧ s.core.k = some k11 ∧ s.pending = words ws ++ [] := ⟨by decide, _, rfl, rfl, rfl, rfl⟩
/-- A read between two transactions; then runs that end with a CTRNEXT and with a HASHUPD. -/
theorem witness_InterleavedKeystreamCounts :
    let s : State := ⟨running, [.word 0x6300, .word 0x9055], []⟩
    s.core.k = some k11 ∧ s.core.ctrv = true ∧
    s.core.ctr = ctrk n22 (BitVec.ofNat 16 0) ∧
    (∀ e ∈ s.pending.take 1, e.command ∉ [some 0x01, some 0x02, some 0x08, some 0x03, some 0x06]) ∧
    (∀ (m : Nat) (u : State), m ≤ 1 → run m s = .next u → u.core.err = false) ∧
    run 1 s = .next ⟨running, [.word 0x9055], [0x07]⟩ := by
  refine ⟨rfl, rfl, by decide, by decide, fun m u hm h => ?_, rfl⟩
  match m, hm with
  | 0, _ => cases h; rfl
  | 1, _ => cases h; rfl
theorem witness_InterleavedKeystreamCounts_ctrnext :
    let s : State := ⟨running, [.word 0xE203], []⟩
    s.pending[0]? = some (.word 0xE203) ∧ (HostEvent.word 0xE203).command = some 0x03 ∧
    (∀ e ∈ s.pending.take 1, e.command ∉ [some 0x01, some 0x02, some 0x08]) ∧
    (∀ (m : Nat) (u : State), m ≤ 1 → run m s = .next u → u.core.err = false) ∧ ∃ t, run 1 s = .next t := by
  refine ⟨rfl, by decide, by decide, fun m u hm h => ?_, _, rfl⟩
  match m, hm with
  | 0, _ => cases h; rfl
  | 1, _ => cases h; rfl
theorem witness_InterleavedHashChains :
    let s : State := ⟨running, [.word 0xE205], []⟩
    s.core.k = some k11 ∧ s.core.accv = true ∧ s.pending[0]? = some (.word 0xE205) ∧
    (HostEvent.word 0xE205).command = some 0x05 ∧
    (∀ e ∈ s.pending.take 1, e.command ∉ [some 0x01, some 0x04, some 0x08]) ∧
    (∀ (m : Nat) (u : State), m ≤ 1 → run m s = .next u → u.core.err = false) ∧ ∃ t, run 1 s = .next t := by
  refine ⟨rfl, rfl, rfl, by decide, by decide, fun m u hm h => ?_, _, rfl⟩
  match m, hm with
  | 0, _ => cases h; rfl
  | 1, _ => cases h; rfl
theorem witness_OffsetMessageComputesOffs :
    let s : State := ⟨keyed, words (offsMsg nseq c33) ++ [], []⟩
    s.core.err = false ∧ s.core.k = some k11 ∧ s.pending = words (offsMsg nseq c33) ++ [] := ⟨rfl, rfl, rfl⟩
/-- Two blocks; and the top of the range, with one CTRNEXT more. -/
theorem witness_CounterCountsBlocks :
    let s : State := ⟨keyed, .word 0xE202 :: (List.replicate 2 (.word 0xE203) ++ []), []⟩
    let u : State := ⟨keyed, .word 0xE202 :: (List.replicate 65535 (.word 0xE203) ++ [.word 0xE203]), []⟩
    s.core.err = false ∧ s.core.k = some k11 ∧ 2 ≤ 65535 ∧
    s.pending = .word 0xE202 :: (List.replicate 2 (.word 0xE203) ++ []) ∧
    u.core.err = false ∧ u.core.k = some k11 ∧ 65535 ≤ 65535 ∧
    u.pending = .word 0xE202 :: (List.replicate 65535 (.word 0xE203) ++ [.word 0xE203]) :=
  ⟨rfl, rfl, by decide, rfl, rfl, rfl, Nat.le_refl _, rfl⟩

end Sys2Proof.Tests
end

section
/-! PROOFS. The statements about the state (spec/10_state.md). Every instruction is a read, a store away from CMD, or
a command byte run by `runCommand`; what a command byte can do is said once, by `CommandEffect`. -/

namespace Sys2Proof.Proofs

open Sys2Proof Sys2Proof.Machine

/-! ### Locations and offsets -/

/-- The offset of a location; the reserved ones are represented by the first of them (R33, R35). -/
def locOffset : Loc → Offset
  | .byte r i => offOf r i
  | .lenHi => 0x60
  | .lenLo => 0x61
  | .cmd => 0x62
  | .status => 0x63
  | .errcode => 0x64
  | .errcmd => 0x65
  | .reserved => 0x66

theorem locOffset_locate (off : Offset) : locate off ≠ .reserved → locOffset (locate off) = off := by
  revert off; decide

theorem locate_injective_of_ne_reserved {off off' : Offset} (h : locate off ≠ .reserved)
    (heq : locate off' = locate off) : off' = off := by
  rw [← locOffset_locate off h, ← heq, locOffset_locate off' (heq ▸ h)]

theorem offOf_toNat (r : Reg16) (i : Fin 16) : (offOf r i).toNat = r.first + i.val := by
  have hr : r.first ≤ 0x50 := by cases r <;> decide
  simp only [offOf, BitVec.toNat_ofNat]
  omega

theorem toNat_of_locate_byte {off : Offset} {r : Reg16} {i : Fin 16} (h : locate off = .byte r i) :
    off.toNat = r.first + i.val := by
  rw [← offOf_toNat, ← locOffset_locate off (by simp [h]), h, locOffset]

theorem eq_of_locate_lenHi {off : Offset} (h : locate off = .lenHi) : off = 0x60 := by
  rw [← locOffset_locate off (by simp [h]), h, locOffset]

theorem eq_of_locate_lenLo {off : Offset} (h : locate off = .lenLo) : off = 0x61 := by
  rw [← locOffset_locate off (by simp [h]), h, locOffset]

/-! ### Reading after a store (R31, R34) -/

/-- The locations that read back the byte written: KEY is stored and reads 0x00. -/
def readsBack : Loc → Bool
  | .byte .nonce _ => true
  | .byte .din _ => true
  | .lenHi => true
  | .lenLo => true
  | _ => false

theorem readsBack_locate (off : Offset) :
    readsBack (locate off) = true ↔ 0x10 ≤ off.toNat ∧ off.toNat < 0x30 ∨ off = 0x60 ∨ off = 0x61 := by
  revert off; decide

theorem readLoc_storeLoc_same (d : Byte) (m : CoreState) (l : Loc) :
    readLoc (storeLoc d m l) l = if readsBack l then d else readLoc m l := by
  cases l with
  | byte r i => cases r <;> simp [storeLoc, readLoc, readsBack]
  | _ => simp [storeLoc, readLoc, readsBack]

theorem readLoc_storeLoc_of_ne (d : Byte) (m : CoreState) {l l' : Loc} (h : l' ≠ l) :
    readLoc (storeLoc d m l) l' = readLoc m l' := by
  cases l with
  | byte r i =>
    cases l' with
    | byte r' j =>
      by_cases hr : r' = r
      · subst hr
        have hij : i.val ≠ j.val := fun e => h (by rw [Fin.ext e])
        cases r' <;> simp [storeLoc, readLoc, Vector.getElem_set_ne, hij]
      · cases r <;> cases r' <;> simp [storeLoc, readLoc] at hr ⊢
    | _ => cases r <;> rfl
  | lenHi =>
    cases l' with
    | byte r j => cases r <;> rfl
    | lenHi => contradiction
    | lenLo => simp [storeLoc, readLoc]
    | _ => rfl
  | lenLo =>
    cases l' with
    | byte r j => cases r <;> rfl
    | lenHi => simp [storeLoc, readLoc]
    | lenLo => contradiction
    | _ => rfl
  | _ => rfl

/-- The reserved offsets share one location, which no store changes. -/
theorem memRead_storeLoc_of_ne (d : Byte) (m : CoreState) {off off' : Offset} (h : off' ≠ off) :
    memRead off' (storeLoc d m (locate off)) = memRead off' m := by
  by_cases hl : locate off' = locate off
  · have hres : locate off = .reserved := by
      by_contra hne
      exact h (locate_injective_of_ne_reserved hne hl)
    rw [hres, storeLoc]
  · exact readLoc_storeLoc_of_ne d m hl

/-- The fields a store changes are the ones its location names. -/
theorem storeLoc_changes (d : Byte) (m : CoreState) (l : Loc) :
    ((storeLoc d m l).key ≠ m.key → ∃ i, l = .byte .key i) ∧
    ((storeLoc d m l).nonce ≠ m.nonce → ∃ i, l = .byte .nonce i) ∧
    ((storeLoc d m l).din ≠ m.din → ∃ i, l = .byte .din i) ∧
    ((storeLoc d m l).len ≠ m.len → l = .lenHi ∨ l = .lenLo) := by
  cases l with
  | byte r i => cases r <;> simp [storeLoc]
  | _ => simp [storeLoc]

theorem readLoc_reset (l : Loc) : readLoc CoreState.reset l = 0x00 := by
  cases l with
  | byte r i => cases r <;> simp [readLoc]
  | _ => rfl

/-! ### Command bytes (R46, R85) -/

@[simp] theorem runCommand_sreset (E : Cipher) (m : CoreState) : runCommand E opSreset m = cmdSreset m := by
  simp [runCommand]
@[simp] theorem runCommand_clrerr (E : Cipher) (m : CoreState) : runCommand E opClrerr m = cmdClrerr m := by
  simp [runCommand]
@[simp] theorem runCommand_setkey (E : Cipher) (m : CoreState) : runCommand E opSetkey m = cmdSetkey m := by
  simp +contextual [runCommand, cmdSetkey]
@[simp] theorem runCommand_ctrinit (E : Cipher) (m : CoreState) : runCommand E opCtrinit m = cmdCtrinit m := by
  simp +contextual [runCommand, cmdCtrinit]
@[simp] theorem runCommand_ctrnext (E : Cipher) (m : CoreState) : runCommand E opCtrnext m = cmdCtrnext E m := by
  simp +contextual [runCommand, cmdCtrnext]
@[simp] theorem runCommand_hashinit (E : Cipher) (m : CoreState) : runCommand E opHashinit m = cmdHashinit E m := by
  simp +contextual [runCommand, cmdHashinit]
@[simp] theorem runCommand_hashupd (E : Cipher) (m : CoreState) : runCommand E opHashupd m = cmdHashupd E m := by
  simp +contextual [runCommand, cmdHashupd]
@[simp] theorem runCommand_offset (E : Cipher) (m : CoreState) : runCommand E opOffset m = cmdMask E m := by
  simp +contextual [runCommand, cmdMask]

/-- A byte of no command (R48, R118). -/
def illegalByte (b : Byte) : Prop := b = 0x00 ∨ 0x09 ≤ b.toNat

theorem commandByte_cases (b : Byte) :
    b = opSetkey ∨ b = opCtrinit ∨ b = opCtrnext ∨ b = opHashinit ∨ b = opHashupd ∨ b = opOffset ∨ b = opClrerr ∨
      b = opSreset ∨ illegalByte b := by
  unfold illegalByte; revert b; decide

theorem runCommand_illegal (E : Cipher) (m : CoreState) {b : Byte} (h : illegalByte b) :
    runCommand E b m = if m.err then m else raise .illcmd b m := by
  have hne : b ≠ opSreset ∧ b ≠ opClrerr ∧ b ≠ opSetkey ∧ b ≠ opCtrinit ∧ b ≠ opCtrnext ∧ b ≠ opHashinit ∧
      b ≠ opHashupd ∧ b ≠ opOffset := by
    unfold illegalByte at h; revert b; decide
  obtain ⟨h8, h7, h1, h2, h3, h4, h5, h6⟩ := hne
  simp only [runCommand, if_neg h8, if_neg h7, if_neg h1, if_neg h2, if_neg h3, if_neg h4, if_neg h5, if_neg h6]

/-- What must hold for command byte `b` to latch a cause (R118 to R122). -/
def causeArises (m : CoreState) (b : Byte) : Cause → Prop
  | .illcmd => illegalByte b
  | .nokey => (b = opCtrnext ∨ b = opHashinit ∨ b = opHashupd ∨ b = opOffset) ∧ m.k = none
  | .noctr => b = opCtrnext ∧ m.k ≠ none ∧ m.ctrv = false
  | .noacc => b = opHashupd ∧ m.k ≠ none ∧ m.accv = false
  | .ctrwrap => b = opCtrnext ∧ m.k ≠ none ∧ m.ctrv = true ∧ inc m.ctr = none

theorem legalLatch_of_causeArises {m : CoreState} {b : Byte} {e : Cause} (h : causeArises m b e) :
    legalLatch e.code b := by
  cases e with
  | illcmd => exact .inl ⟨rfl, h⟩
  | nokey => exact .inr (.inl ⟨rfl, h.1⟩)
  | noctr => exact .inr (.inr (.inl ⟨rfl, h.1⟩))
  | noacc => exact .inr (.inr (.inr (.inl ⟨rfl, h.1⟩)))
  | ctrwrap => exact .inr (.inr (.inr (.inr ⟨rfl, h.1⟩)))

/-- SETKEY, CTRINIT, CLRERR and SRESET latch nothing. -/
theorem not_mem_of_legalLatch {code b : Byte} (h : legalLatch code b) :
    b ∉ [opSetkey, opCtrinit, opClrerr, opSreset] := by
  have hb : b = 0x03 ∨ b = 0x04 ∨ b = 0x05 ∨ b = 0x06 ∨ illegalByte b := by
    unfold illegalByte
    obtain ⟨-, h | h⟩ | ⟨-, h | h | h | h⟩ | ⟨-, h⟩ | ⟨-, h⟩ | ⟨-, h⟩ := h <;> simp [h]
  clear h
  unfold illegalByte at hb
  revert b; decide

/-- Everything command byte `b` can make of the CORE `m`, one constructor for each effect (R85). -/
inductive CommandEffect (E : Cipher) (m : CoreState) : Byte → CoreState → Prop
  | sreset : CommandEffect E m opSreset CoreState.reset
  | clrerr : CommandEffect E m opClrerr (clearLatch m)
  | ignored (b : Byte) (hb : b ≠ opSreset ∧ b ≠ opClrerr) (herr : m.err = true) : CommandEffect E m b m
  | latched (b : Byte) (e : Cause) (herr : m.err = false) (hcause : causeArises m b e) :
      CommandEffect E m b (raise e b m)
  | setkey (herr : m.err = false) :
      CommandEffect E m opSetkey { m with k := some m.key, key := zeroBlock, ctrv := false, accv := false }
  | ctrinit (herr : m.err = false) : CommandEffect E m opCtrinit { m with ctr := ctr0 m.nonce, ctrv := true }
  | ctrnext (key c : Block) (herr : m.err = false) (hkey : m.k = some key) (hctrv : m.ctrv = true)
      (hinc : inc m.ctr = some c) :
      CommandEffect E m opCtrnext { m with ctr := c, dout := blockXor (E key c) m.din }
  | hashinit (key : Block) (herr : m.err = false) (hkey : m.k = some key) :
      CommandEffect E m opHashinit { m with acc := E key (ctrh m.nonce m.len), accv := true }
  | hashupd (key : Block) (herr : m.err = false) (hkey : m.k = some key) (haccv : m.accv = true) :
      CommandEffect E m opHashupd { m with acc := E key (blockXor m.acc m.din) }
  | offset (key : Block) (herr : m.err = false) (hkey : m.k = some key) :
      CommandEffect E m opOffset { m with dout := blockXor (E key (ctr0 m.nonce)) m.din }

theorem runCommand_effect (E : Cipher) (b : Byte) (m : CoreState) : CommandEffect E m b (runCommand E b m) := by
  obtain rfl | rfl | rfl | rfl | rfl | rfl | rfl | rfl | hb := commandByte_cases b
  · obtain ⟨he, h⟩ | ⟨he, h⟩ := cmdSetkey_cases m <;> rw [runCommand_setkey, h]
    · exact .ignored _ (by decide) he
    · exact .setkey he
  · obtain ⟨he, h⟩ | ⟨he, h⟩ := cmdCtrinit_cases m <;> rw [runCommand_ctrinit, h]
    · exact .ignored _ (by decide) he
    · exact .ctrinit he
  · obtain ⟨he, h⟩ | ⟨he, hk, h⟩ | ⟨he, hk, hv, h⟩ | ⟨he, hk, hv, hi, h⟩ | ⟨key, c, he, hk, hv, hi, h⟩ :=
      cmdCtrnext_cases E m <;> rw [runCommand_ctrnext, h]
    · exact .ignored _ (by decide) he
    · exact .latched _ .nokey he ⟨by simp, hk⟩
    · exact .latched _ .noctr he ⟨rfl, hk, hv⟩
    · exact .latched _ .ctrwrap he ⟨rfl, hk, hv, hi⟩
    · exact .ctrnext key c he hk hv hi
  · obtain ⟨he, h⟩ | ⟨he, hk, h⟩ | ⟨key, he, hk, h⟩ := cmdHashinit_cases E m <;> rw [runCommand_hashinit, h]
    · exact .ignored _ (by decide) he
    · exact .latched _ .nokey he ⟨by simp, hk⟩
    · exact .hashinit key he hk
  · obtain ⟨he, h⟩ | ⟨he, hk, h⟩ | ⟨he, hk, hv, h⟩ | ⟨key, he, hk, hv, h⟩ := cmdHashupd_cases E m <;>
      rw [runCommand_hashupd, h]
    · exact .ignored _ (by decide) he
    · exact .latched _ .nokey he ⟨by simp, hk⟩
    · exact .latched _ .noacc he ⟨rfl, hk, hv⟩
    · exact .hashupd key he hk hv
  · obtain ⟨he, h⟩ | ⟨he, hk, h⟩ | ⟨key, he, hk, h⟩ := cmdMask_cases E m <;> rw [runCommand_offset, h]
    · exact .ignored _ (by decide) he
    · exact .latched _ .nokey he ⟨by simp, hk⟩
    · exact .offset key he hk
  · rw [runCommand_clrerr]; exact .clrerr
  · rw [runCommand_sreset]; exact .sreset
  · rw [runCommand_illegal E m hb]
    split
    next he => exact .ignored b (by unfold illegalByte at hb; revert b; decide) he
    next he => exact .latched b .illcmd (by simpa using he) hb

/-! ### Instructions: a read, a store away from CMD, or a command byte -/

theorem instr_cases (i : Instr) :
    (∃ off, i = .rd off) ∨ (∃ off d, off ≠ 0x62 ∧ i = .wr off d) ∨ ∃ b, commandByte i = some b := by
  cases i with
  | rd off => exact .inl ⟨off, rfl⟩
  | wr off d =>
    by_cases h : off = cmdOffset
    · exact .inr (.inr ⟨d, by simp [commandByte, h]⟩)
    · exact .inr (.inl ⟨off, d, h, rfl⟩)
  | _ => exact .inr (.inr ⟨_, rfl⟩)

@[simp] theorem commandByte_rd (off : Offset) : commandByte (.rd off) = none := rfl

theorem commandByte_wr_of_ne_cmd {off : Offset} (d : Byte) (h : off ≠ 0x62) : commandByte (.wr off d) = none :=
  if_neg h

theorem exec_rd (off : Offset) (s : State) : exec (.rd off) s = .next (s.bindRead (memRead off s.core)) := rfl

theorem exec_wr_of_ne_cmd {off : Offset} (d : Byte) (s : State) (h : off ≠ 0x62) :
    exec (.wr off d) s = .next (s.onCore fun m => storeLoc d m (locate off)) := by
  simp only [exec, execWr, State.onCore, memWrite_of_ne_cmd Config.cipher off d s.core h]

/-- A command has the effect of its byte, written to CMD or as a term of its own (R46, R85). -/
theorem exec_of_commandByte {i : Instr} {b : Byte} (s : State) (h : commandByte i = some b) :
    exec i s = .next (s.onCore (runCommand Config.cipher b)) := by
  cases i with
  | rd off => simp at h
  | wr off d =>
    obtain ⟨hoff, hd⟩ : off = cmdOffset ∧ d = b := by simpa [commandByte] using h
    subst hoff hd
    exact congrArg (fun f => Host.Outcome.next (s.onCore f)) (funext (memWrite_cmd Config.cipher d))
  | setkey => cases h; simp only [exec, execSetkey, State.onCore, runCommand_setkey]
  | ctrinit => cases h; simp only [exec, execCtrinit, State.onCore, runCommand_ctrinit]
  | ctrnext => cases h; simp only [exec, execCtrnext, State.onCore, runCommand_ctrnext]
  | hashinit => cases h; simp only [exec, execHashinit, State.onCore, runCommand_hashinit]
  | hashupd => cases h; simp only [exec, execHashupd, State.onCore, runCommand_hashupd]
  | offset => cases h; simp only [exec, execOffset, State.onCore, runCommand_offset]
  | clrerr => cases h; simp only [exec, execClrerr, State.onCore, runCommand_clrerr]
  | sreset => cases h; simp only [exec, execSreset, State.onCore, runCommand_sreset]

/-- A property of the CORE that stores and command bytes keep is kept by every step. -/
theorem step_keeps {P : CoreState → Prop} (hstore : ∀ d m l, P m → P (storeLoc d m l))
    (hcmd : ∀ b m, P m → P (runCommand Config.cipher b m)) {s t : State} (hs : P s.core)
    (hstep : step s = .next t) : P t.core := by
  have hexec (i : Instr) (u : State) (hu : P u.core) (h : exec i u = .next t) : P t.core := by
    obtain ⟨off, rfl⟩ | ⟨off, d, hoff, rfl⟩ | ⟨b, hb⟩ := instr_cases i
    · rw [exec_rd] at h; cases h; exact hu
    · rw [exec_wr_of_ne_cmd d u hoff] at h; cases h; exact hstore d _ _ hu
    · rw [exec_of_commandByte u hb] at h; cases h; exact hcmd b _ hu
  cases hp : s.pending with
  | nil =>
    obtain ⟨m, p, r⟩ := s
    cases hp; cases hstep; exact hs
  | cons e rest =>
    obtain ⟨i, -, h⟩ | ⟨r, -, h⟩ := step_event s e rest hp <;> rw [h] at hstep
    · exact hexec i { s with pending := rest } hs hstep
    · cases hstep

/-! ### The invariant -/

/-- An increment changes the two index bytes alone (R61). -/
theorem getElem_of_inc {b b' : Block} (h : inc b = some b') (j : Nat) (hj : j < 14) : b'[j] = b[j] := by
  obtain ⟨-, hinc⟩ | ⟨-, -, hinc⟩ | ⟨-, -, hinc⟩ := inc_cases b <;> rw [hinc] at h
  · cases h; rw [Vector.getElem_set_ne]; omega
  · cases h; rw [Vector.getElem_set_ne, Vector.getElem_set_ne] <;> omega
  · cases h

theorem coreInv_reset : CoreInv CoreState.reset :=
  ⟨by simp, by simp, by simp, by simp⟩

theorem storeLoc_keeps_coreInv (d : Byte) (m : CoreState) (l : Loc) (h : CoreInv m) : CoreInv (storeLoc d m l) := by
  obtain ⟨key, nonce, din, len, hst⟩ := storeLoc_frame d m l
  rw [hst]
  exact ⟨h.accvKeyv, h.ctrvTag, h.clearZero, h.latchLegal⟩

theorem runCommand_keeps_coreInv (E : Cipher) (b : Byte) (m : CoreState) (h : CoreInv m) :
    CoreInv (runCommand E b m) := by
  obtain ⟨hacc, htag, hzero, hlegal⟩ := h
  have heff := runCommand_effect E b m
  generalize runCommand E b m = r at heff ⊢
  cases heff with
  | sreset => exact coreInv_reset
  | clrerr => exact ⟨hacc, htag, by simp, by simp⟩
  | ignored => exact ⟨hacc, htag, hzero, hlegal⟩
  | latched _ e _ hcause => exact ⟨hacc, htag, by simp, fun _ => legalLatch_of_causeArises hcause⟩
  | setkey => exact ⟨by simp, by simp, hzero, hlegal⟩
  | ctrinit => exact ⟨hacc, fun _ => counterBlock_tag .., hzero, hlegal⟩
  | ctrnext key c _ _ hctrv hinc =>
    exact ⟨hacc, fun _ => (getElem_of_inc hinc 0 (by decide)).trans (htag hctrv), hzero, hlegal⟩
  | hashinit key _ hkey => exact ⟨fun _ => by simp [hkey], htag, hzero, hlegal⟩
  | hashupd => exact ⟨hacc, htag, hzero, hlegal⟩
  | offset => exact ⟨hacc, htag, hzero, hlegal⟩

/-! ### Two machines that differ in the key alone (R26, R34) -/

/-- Two cores the host cannot tell apart: they differ at most in KEY and in the key inside `K`. -/
def coreAlike (m m' : CoreState) : Prop :=
  ∃ key k, m.k.isSome = k.isSome ∧ m' = { m with key := key, k := k }

theorem sameToHost_iff (s s' : State) :
    sameToHost s s' ↔ coreAlike s.core s'.core ∧ s.pending = s'.pending ∧ s.reads = s'.reads := by
  unfold sameToHost coreAlike
  rw [← and_assoc]
  refine and_congr_left fun _ => ⟨fun ⟨hk, hm⟩ => ⟨_, _, hk, hm.symm⟩, ?_⟩
  rintro ⟨key, k, hk, hm⟩
  rw [hm]
  exact ⟨hk, rfl⟩

theorem memRead_coreAlike {m m' : CoreState} (h : coreAlike m m') (off : Offset) : memRead off m = memRead off m' := by
  obtain ⟨key, k, hk, rfl⟩ := h
  unfold memRead
  cases locate off with
  | byte r i => cases r <;> rfl
  | status => simp [readLoc, CoreState.status, CoreState.keyv, hk]
  | _ => rfl

theorem storeLoc_coreAlike {m m' : CoreState} (h : coreAlike m m') (d : Byte) (l : Loc) :
    coreAlike (storeLoc d m l) (storeLoc d m' l) := by
  obtain ⟨key, k, hk, rfl⟩ := h
  cases l with
  | byte r i => cases r <;> exact ⟨_, _, hk, rfl⟩
  | _ => exact ⟨_, _, hk, rfl⟩

/-- The bytes of the four encrypting commands are the ones that let the key through. -/
theorem runCommand_coreAlike {m m' : CoreState} (E : Cipher) {b : Byte} (h : coreAlike m m')
    (hb : b ∉ [opCtrnext, opHashinit, opHashupd, opOffset]) : coreAlike (runCommand E b m) (runCommand E b m') := by
  obtain ⟨key, k, hk, rfl⟩ := h
  obtain rfl | rfl | rfl | rfl | rfl | rfl | rfl | rfl | hill := commandByte_cases b
  · simp only [runCommand_setkey, cmdSetkey]
    split
    · exact ⟨_, _, hk, rfl⟩
    · exact ⟨zeroBlock, some key, rfl, rfl⟩
  · simp only [runCommand_ctrinit, cmdCtrinit]
    split <;> exact ⟨_, _, hk, rfl⟩
  · simp at hb
  · simp at hb
  · simp at hb
  · simp at hb
  · simp only [runCommand_clrerr]
    exact ⟨_, _, hk, rfl⟩
  · simp only [runCommand_sreset]
    exact ⟨_, _, rfl, rfl⟩
  · simp only [runCommand_illegal E _ hill]
    split <;> exact ⟨_, _, hk, rfl⟩

theorem exec_coreAlike {i : Instr} {s s' : State} (h : sameToHost s s')
    (hi : commandByte i ∉ [some opCtrnext, some opHashinit, some opHashupd, some opOffset]) :
    ∃ t t', exec i s = .next t ∧ exec i s' = .next t' ∧ sameToHost t t' := by
  simp only [sameToHost_iff] at h ⊢
  obtain ⟨hcore, hpend, hreads⟩ := h
  obtain ⟨off, rfl⟩ | ⟨off, d, hoff, rfl⟩ | ⟨b, hb⟩ := instr_cases i
  · refine ⟨_, _, exec_rd off s, exec_rd off s', hcore, hpend, ?_⟩
    rw [State.bindRead_reads, State.bindRead_reads, hreads, memRead_coreAlike hcore]
  · exact ⟨_, _, exec_wr_of_ne_cmd d s hoff, exec_wr_of_ne_cmd d s' hoff, storeLoc_coreAlike hcore d _, hpend, hreads⟩
  · have hb' : b ∉ [opCtrnext, opHashinit, opHashupd, opOffset] := by simpa [hb] using hi
    exact ⟨_, _, exec_of_commandByte s hb, exec_of_commandByte s' hb, runCommand_coreAlike _ hcore hb', hpend, hreads⟩

/-! ### The nonce bytes no command uses (R15, R58, R59) -/

/-- Equal in the 13 bytes a counter block takes. -/
def sameNonceHead (nonce nonce' : Block) : Prop := ∀ j : Nat, (h : j < 13) → nonce'[j] = nonce[j]

theorem counterBlock_congr {nonce nonce' : Block} (h : sameNonceHead nonce nonce') (tag : Byte) (n : Word16) :
    counterBlock tag nonce' n = counterBlock tag nonce n := by
  ext j hj : 1
  rw [counterBlock_getElem _ _ _ _ hj, counterBlock_getElem _ _ _ _ hj]
  split_ifs with h0 h14 h15
  · rfl
  · rfl
  · rfl
  · exact h (j - 1) (by omega)

/-- Every command but SRESET acts alike on both cores and keeps the difference. -/
theorem runCommand_of_sameNonceHead (E : Cipher) (b : Byte) (m : CoreState) {nonce' : Block}
    (h : sameNonceHead m.nonce nonce') (hb : b ≠ opSreset) :
    runCommand E b { m with nonce := nonce' } = { runCommand E b m with nonce := nonce' } := by
  obtain rfl | rfl | rfl | rfl | rfl | rfl | rfl | rfl | hill := commandByte_cases b
  · simp only [runCommand_setkey, cmdSetkey]
    split <;> rfl
  · simp only [runCommand_ctrinit, cmdCtrinit, ctr0, counterBlock_congr h]
    split <;> rfl
  · simp only [runCommand_ctrnext, cmdCtrnext]
    split
    · rfl
    · split
      · rfl
      · split
        · rfl
        · split <;> rfl
  · simp only [runCommand_hashinit, cmdHashinit, ctrh, counterBlock_congr h]
    split
    · rfl
    · split <;> rfl
  · simp only [runCommand_hashupd, cmdHashupd]
    split
    · rfl
    · split
      · rfl
      · split <;> rfl
  · simp only [runCommand_offset, cmdMask, ctr0, counterBlock_congr h]
    split
    · rfl
    · split <;> rfl
  · simp only [runCommand_clrerr]
    rfl
  · exact absurd rfl hb
  · simp only [runCommand_illegal E _ hill]
    split <;> rfl

theorem runCommand_nonce (E : Cipher) {b : Byte} (m : CoreState) (hb : b ≠ opSreset) :
    (runCommand E b m).nonce = m.nonce := by
  have heff := runCommand_effect E b m
  generalize runCommand E b m = r at heff ⊢
  cases heff with
  | sreset => exact absurd rfl hb
  | _ => rfl

/-- SRESET is the command that ends the difference; every other one keeps it. -/
theorem runCommand_keeps_sameNonceHead (E : Cipher) (b : Byte) (m : CoreState) {nonce' : Block}
    (h : sameNonceHead m.nonce nonce') :
    { runCommand E b { m with nonce := nonce' } with nonce := (runCommand E b m).nonce } = runCommand E b m ∧
      sameNonceHead (runCommand E b m).nonce (runCommand E b { m with nonce := nonce' }).nonce := by
  by_cases hb : b = opSreset
  · subst hb
    simp only [runCommand_sreset]
    exact ⟨rfl, fun _ _ => rfl⟩
  · rw [runCommand_of_sameNonceHead E b m h hb]
    refine ⟨rfl, ?_⟩
    rw [runCommand_nonce E m hb]
    exact h

/-! ### The settled statements -/

/-- Settles O43: stores leave the invariant's fields alone, and every effect of a command byte keeps it. -/
theorem everyStepKeepsInvariant : Obligations.EveryStepKeepsInvariant := by
  intro s t hinv hstep
  exact step_keeps storeLoc_keeps_coreInv (runCommand_keeps_coreInv Config.cipher) hinv hstep

/-- Settles O42. -/
theorem resetMeetsInvariant : Obligations.ResetMeetsInvariant := coreInv_reset

/-- Settles O45: ERR is 0 at reset. -/
theorem resetMeetsLatchExplained : Obligations.ResetMeetsLatchExplained :=
  fun herr => absurd herr (by simp)

/-- Settles O39. -/
theorem resetValues : Obligations.ResetValues :=
  ⟨rfl, fun off => readLoc_reset (locate off)⟩

/-- Settles O12: the location written reads back or ignores the byte, the others are untouched. -/
theorem readBackAfterWrite : Obligations.ReadBackAfterWrite := by
  intro s off d hoff
  refine ⟨_, exec_wr_of_ne_cmd d s hoff, fun off' hne => memRead_storeLoc_of_ne d s.core hne, ?_⟩
  simp only [← readsBack_locate]
  exact readLoc_storeLoc_same d s.core (locate off)

/-- Settles O32: a read changes nothing of the CORE, a store the register at its offset, a command byte what its
effect lists. -/
theorem onlyListedWritersChange : Obligations.OnlyListedWritersChange := by
  intro i s t hexec
  obtain ⟨off, rfl⟩ | ⟨off, d, hoff, rfl⟩ | ⟨b, hb⟩ := instr_cases i
  · rw [exec_rd] at hexec
    cases hexec
    simp
  · rw [exec_wr_of_ne_cmd d s hoff] at hexec
    cases hexec
    obtain ⟨hkey, hnonce, hdin, hlen⟩ := storeLoc_changes d s.core (locate off)
    obtain ⟨key, nonce, din, len, hst⟩ := storeLoc_frame d s.core (locate off)
    have hbyte {r : Reg16} (h : ∃ i, locate off = .byte r i) : r.first ≤ off.toNat ∧ off.toNat < r.first + 16 := by
      obtain ⟨j, hj⟩ := h
      rw [toNat_of_locate_byte hj]
      omega
    refine ⟨fun h => .inr ⟨off, d, rfl, (hbyte (hkey h)).2⟩, fun h => .inr ⟨off, d, rfl, hbyte (hnonce h)⟩,
      fun h => .inr ⟨off, d, rfl, hbyte (hdin h)⟩,
      fun h => .inr ⟨off, d, rfl, (hlen h).imp eq_of_locate_lenHi eq_of_locate_lenLo⟩, ?_⟩
    simp +contextual [hst]
  · rw [exec_of_commandByte s hb] at hexec
    cases hexec
    have heff := runCommand_effect Config.cipher b s.core
    simp only [State.onCore_core, State.onCore_pending, State.onCore_reads, hb]
    generalize runCommand Config.cipher b s.core = r at heff ⊢
    cases heff with
    | latched _ e _ hcause =>
      have hnot : ¬b = 1#8 ∧ ¬b = 2#8 ∧ ¬b = 7#8 ∧ ¬b = 8#8 := by
        simpa using not_mem_of_legalLatch (legalLatch_of_causeArises hcause)
      simp [hnot]
    | ignored _ _ herr => simp [herr]
    | _ => simp

/-- Settles O34: neither what is read nor any effect but the four encryptions looks at the key. -/
theorem keyStaysHidden : Obligations.KeyStaysHidden := by
  intro i s s' hsame
  exact ⟨memRead_coreAlike ((sameToHost_iff s s').mp hsame).1, exec_coreAlike hsame⟩

/-- Settles O35: a counter block takes 13 nonce bytes, and nothing else but SRESET, which ends the difference, looks
at NONCE. -/
theorem nonceTailUnused : Obligations.NonceTailUnused := by
  intro i b s nonce' hb hhead
  exact ⟨_, _, exec_of_commandByte s hb, exec_of_commandByte _ hb, rfl, rfl,
    runCommand_keeps_sameNonceHead Config.cipher b s.core hhead⟩

end Sys2Proof.Proofs
end

section
/-! PROOFS. The statements about the register window (spec/20_memory.md). What a platform access amounts to is said
once, case by case of `accessWord`; a step then performs the instruction of the host's next event. -/

namespace Sys2Proof.Proofs

open Sys2Proof Sys2Proof.Machine

/-! ### The words of the window's accesses (R33, R44) -/

/-- The assembler's arithmetic for a write, `0x8000 + 256*off + d`, loses no bit (R53). -/
theorem packWord_write_eq_add (off : Offset) (d : Byte) :
    packWord true off d = 0x8000#16 + 256#16 * off.setWidth 16 + d.setWidth 16 := by
  have hoff := off.isLt
  have hd := d.isLt
  apply BitVec.eq_of_toNat_eq
  rw [packWord_toNat]
  simp only [BitVec.toNat_add, BitVec.toNat_mul, BitVec.toNat_setWidth, BitVec.toNat_ofNat, Bool.toNat_true]
  omega

@[simp] theorem decode_packWord_read (off : Offset) (d : Byte) : decode (packWord false off d) = .rd off := by
  simp [decode]

theorem base_add_offset_in_window (off : Offset) :
    ¬(Config.base + off.toNat < Config.base ∨ Config.base + 0x7F < Config.base + off.toNat) := by
  have hoff := off.isLt
  omega

theorem accessWord_read (off : Offset) :
    accessWord (Config.base + off.toNat) 1 .read = .ok (packWord false off 0x00) := by
  simp only [accessWord, ne_eq, not_true_eq_false, if_false, if_neg (base_add_offset_in_window off),
    Nat.add_sub_cancel_left, BitVec.ofNat_toNat, BitVec.setWidth_eq]

theorem accessWord_write (off : Offset) (d : Byte) :
    accessWord (Config.base + off.toNat) 1 (.write d) = .ok (packWord true off d) := by
  simp only [accessWord, ne_eq, not_true_eq_false, if_false, if_neg (base_add_offset_in_window off),
    Nat.add_sub_cancel_left, BitVec.ofNat_toNat, BitVec.setWidth_eq]

theorem accessWord_of_width_ne_one {bytes : Nat} (addr : Nat) (kind : AccessKind) (h : bytes ≠ 1) :
    accessWord addr bytes kind = .error .wideAccess := if_pos h

theorem accessWord_of_outside {addr : Nat} (kind : AccessKind)
    (h : addr < Config.base ∨ Config.base + 128 ≤ addr) : accessWord addr 1 kind = .error .outsideWindow := by
  simp only [accessWord, ne_eq, not_true_eq_false, if_false]
  exact if_pos (h.imp_right Nat.lt_of_succ_le)

/-! ### One step -/

theorem step_idle {s : State} (hp : s.pending = []) : step s = .next s := by
  unfold step takeEvent
  rw [hp]

theorem step_of_instr {s : State} {e : HostEvent} {rest : List HostEvent} {i : Instr} (hp : s.pending = e :: rest)
    (hi : e.instr = some i) : step s = exec i { s with pending := rest } := by
  obtain ⟨j, hj, hstep⟩ | ⟨r, hnone, -⟩ := step_event s e rest hp
  · cases hi.symm.trans hj
    exact hstep
  · cases hi.symm.trans hnone

theorem step_of_accessWord_error {s : State} {addr bytes : Nat} {kind : AccessKind} {rest : List HostEvent}
    {r : Refusal} (hp : s.pending = .access addr bytes kind :: rest) (hw : accessWord addr bytes kind = .error r) :
    step s = .refused r := by
  obtain ⟨m, p, v⟩ := s
  cases hp
  simp [step, hw]

theorem instr_of_accessWord {addr bytes : Nat} {kind : AccessKind} {w : T16}
    (hw : accessWord addr bytes kind = .ok w) : (HostEvent.access addr bytes kind).instr = some (decode w) := by
  simp [HostEvent.instr, hw]

/-! ### Ordinary events -/

theorem isOrdinary_access {addr bytes : Nat} {kind : AccessKind}
    (h : (HostEvent.access addr bytes kind).isOrdinary = true) :
    bytes = 1 ∧ ∃ off : Offset, addr = Config.base + off.toNat := by
  obtain ⟨⟨hbytes, hlow⟩, hhigh⟩ : (bytes = 1 ∧ Config.base ≤ addr) ∧ addr ≤ Config.base + 0x7F := by
    simpa [HostEvent.isOrdinary] using h
  refine ⟨hbytes, BitVec.ofNat 7 (addr - Config.base), ?_⟩
  rw [BitVec.toNat_ofNat]
  omega

/-- Every ordinary event has the CORE perform an instruction (R34). -/
theorem exists_instr_of_isOrdinary {e : HostEvent} (h : e.isOrdinary = true) : ∃ i, e.instr = some i := by
  cases e with
  | word w => exact ⟨_, rfl⟩
  | access addr bytes kind =>
    obtain ⟨rfl, off, rfl⟩ := isOrdinary_access h
    cases kind with
    | read => exact ⟨_, instr_of_accessWord (accessWord_read off)⟩
    | write d => exact ⟨_, instr_of_accessWord (accessWord_write off d)⟩
  | reset => exact ⟨_, rfl⟩

theorem step_next_of_ordinary {s : State} (h : ∀ e ∈ s.pending, HostEvent.isOrdinary e = true) :
    ∃ t : State, step s = .next t ∧ t.pending = s.pending.tail := by
  cases hp : s.pending with
  | nil => exact ⟨s, step_idle hp, hp⟩
  | cons e rest =>
    obtain ⟨i, hi⟩ := exists_instr_of_isOrdinary (h e (by simp [hp]))
    rw [step_of_instr hp hi]
    exact exec_next i { s with pending := rest }

/-! ### The settled statements -/

/-- Settles O40: inside the window the access is the word at its offset, and otherwise `accessWord` names the
refusal. -/
theorem platformAccessIsTransaction : Obligations.PlatformAccessIsTransaction := by
  intro s rest off d addr bytes kind
  refine ⟨fun hp => ?write, fun hp => ?read, fun hp hwidth => ?width, fun hp houtside => ?outside⟩
  case write =>
    rw [← packWord_write_eq_add]
    exact step_of_instr hp (instr_of_accessWord (accessWord_write off d))
  case read =>
    rw [step_of_instr hp (instr_of_accessWord (accessWord_read off)), decode_packWord_read]
  case width => exact step_of_accessWord_error hp (accessWord_of_width_ne_one addr kind hwidth)
  case outside => exact step_of_accessWord_error hp (accessWord_of_outside kind houtside)

/-- Settles O41, by induction on the number of steps: each takes one event and leaves ordinary ones. -/
theorem ordinaryEventsNeverStop : Obligations.OrdinaryEventsNeverStop := by
  intro n
  induction n with
  | zero => exact fun s _ => ⟨s, rfl, rfl⟩
  | succ n ih =>
    intro s hord
    obtain ⟨u, hstep, hu⟩ := step_next_of_ordinary hord
    obtain ⟨t, hrun, ht⟩ := ih u fun e he => hord e (List.mem_of_mem_tail (hu ▸ he))
    exact ⟨t, by rw [run_succ_of_next n s u hstep, hrun], by rw [ht, hu, List.drop_tail]⟩

/-- Settles O36. -/
theorem stepRunsDecodedWord : Obligations.StepRunsDecodedWord := by
  intro s w rest i hp hdecode _
  subst hdecode
  exact step_of_instr hp rfl

end Sys2Proof.Proofs
end

section
/-! PROOFS. The statements about the encoding and the message-level pseudo-instructions (spec/30_encoding.md). A word
is a read, a command, or a plain write; what a list of words does to the CORE is said by `Transacts`, which composes
along the list, so that each expansion's effect is put together from those of its parts. -/

namespace Sys2Proof.Proofs

open Sys2Proof Sys2Proof.Machine

/-! ### Commands and plain writes as words (R46 to R48, R53) -/

theorem opcode_or_illegalByte (b : Byte) : (∃ i, opcodeOf i = some b) ∨ illegalByte b := by
  obtain rfl | rfl | rfl | rfl | rfl | rfl | rfl | rfl | hill := commandByte_cases b
  · exact .inl ⟨.setkey, rfl⟩
  · exact .inl ⟨.ctrinit, rfl⟩
  · exact .inl ⟨.ctrnext, rfl⟩
  · exact .inl ⟨.hashinit, rfl⟩
  · exact .inl ⟨.hashupd, rfl⟩
  · exact .inl ⟨.offset, rfl⟩
  · exact .inl ⟨.clrerr, rfl⟩
  · exact .inl ⟨.sreset, rfl⟩
  · exact .inr hill

theorem decodeCommand_of_opcode {i : Instr} {b : Byte} (h : opcodeOf i = some b) : decodeCommand b = .ok i := by
  cases i <;> cases h <;> rfl

theorem decodeCommand_illegal {b : Byte} (h : illegalByte b) : decodeCommand b = .error (.illegalCommand b) := by
  have hne : b ≠ opSetkey ∧ b ≠ opCtrinit ∧ b ≠ opCtrnext ∧ b ≠ opHashinit ∧ b ≠ opHashupd ∧ b ≠ opOffset ∧
      b ≠ opClrerr ∧ b ≠ opSreset := by
    unfold illegalByte at h; revert b; decide
  obtain ⟨h1, h2, h3, h4, h5, h6, h7, h8⟩ := hne
  simp only [decodeCommand, if_neg h1, if_neg h2, if_neg h3, if_neg h4, if_neg h5, if_neg h6, if_neg h7, if_neg h8]

/-- The word of a command is `0xE200 + opcode` (R46). -/
theorem encode_of_opcode {i : Instr} {b : Byte} (h : opcodeOf i = some b) :
    encode i = packWord true cmdOffset b := by
  cases i <;> cases h <;> rfl

theorem wellFormed_of_opcode {i : Instr} {b : Byte} (h : opcodeOf i = some b) : i.wellFormed = true := by
  cases i <;> cases h <;> rfl

theorem commandByte_of_opcode {i : Instr} {b : Byte} (h : opcodeOf i = some b) : commandByte i = some b := by
  cases i <;> cases h <;> rfl

theorem wellFormed_wr_iff (off : Offset) (d : Byte) :
    (Instr.wr off d).wellFormed = true ↔ (off = cmdOffset → illegalByte d) := by
  have hbyte : illegalByte d ↔ ¬(1 ≤ d.toNat ∧ d.toNat ≤ 8) := by
    unfold illegalByte; revert d; decide
  rw [hbyte]
  simp only [Instr.wellFormed, Bool.not_eq_true', Bool.and_eq_false_imp, Bool.and_eq_true, beq_iff_eq,
    decide_eq_true_eq, decide_eq_false_iff_not, and_imp, not_and]

/-- A write is a command of the opcode map or stays a plain write, which is then a well-formed term. -/
theorem decodeWrite_cases (off : Offset) (d : Byte) :
    (off = cmdOffset ∧ opcodeOf (decodeWrite off d) = some d) ∨
    ((Instr.wr off d).wellFormed = true ∧ decodeWrite off d = .wr off d) := by
  by_cases hoff : off = cmdOffset
  · obtain ⟨i, hi⟩ | hill := opcode_or_illegalByte d
    · refine .inl ⟨hoff, ?_⟩
      simpa only [decodeWrite, if_pos hoff, decodeCommand_of_opcode hi] using hi
    · refine .inr ⟨(wellFormed_wr_iff off d).mpr fun _ => hill, ?_⟩
      simp only [decodeWrite, if_pos hoff, decodeCommand_illegal hill]
  · exact .inr ⟨(wellFormed_wr_iff off d).mpr fun h => absurd h hoff, if_neg hoff⟩

theorem decodeWrite_of_opcode {i : Instr} {b : Byte} (h : opcodeOf i = some b) : decodeWrite cmdOffset b = i := by
  simp only [decodeWrite, if_true, decodeCommand_of_opcode h]

theorem decodeWrite_of_wellFormed {off : Offset} {d : Byte} (h : (Instr.wr off d).wellFormed = true) :
    decodeWrite off d = .wr off d := by
  obtain ⟨hoff, hop⟩ | ⟨-, heq⟩ := decodeWrite_cases off d
  · have hill := (wellFormed_wr_iff off d).mp h hoff
    have hok := (decodeCommand_of_opcode hop).symm.trans (decodeCommand_illegal hill)
    cases hok
  · exact heq

theorem decodeWrite_wellFormed (off : Offset) (d : Byte) : (decodeWrite off d).wellFormed = true := by
  obtain ⟨-, hop⟩ | ⟨hwf, heq⟩ := decodeWrite_cases off d
  · exact wellFormed_of_opcode hop
  · rw [heq]; exact hwf

theorem encode_decodeWrite (off : Offset) (d : Byte) : encode (decodeWrite off d) = packWord true off d := by
  obtain ⟨hoff, hop⟩ | ⟨-, heq⟩ := decodeWrite_cases off d
  · rw [encode_of_opcode hop, hoff]
  · rw [heq, encode]

@[simp] theorem decode_packWord_write (off : Offset) (d : Byte) :
    decode (packWord true off d) = decodeWrite off d := by
  simp [decode]

theorem decode_encode_of_opcode {i : Instr} {b : Byte} (h : opcodeOf i = some b) : decode (encode i) = i := by
  rw [encode_of_opcode h, decode_packWord_write, decodeWrite_of_opcode h]

/-- The canonical word of a read has its data bits 0 (R49). -/
theorem packWord_and_high (w : Bool) (off : Offset) (d : Byte) :
    packWord w off d &&& 0xFF00 = packWord w off 0x00 := by
  have hmask : (0xFF00 : T16) = (BitVec.allOnes 1 ++ BitVec.allOnes 7) ++ 0x00#8 := by decide
  rw [hmask, packWord, packWord, BitVec.and_append, BitVec.and_append, BitVec.and_allOnes, BitVec.and_allOnes,
    BitVec.and_zero]
  rfl

/-! ### The counter's index (R61, R63) -/

theorem toNat_ofNat_of_le {n : Nat} (h : n ≤ 65535) : (BitVec.ofNat 16 n).toNat = n := by
  rw [BitVec.toNat_ofNat]
  omega

theorem be16_toNat (h l : Byte) : (be16 h l).toNat = 256 * h.toNat + l.toNat := by
  rw [be16, BitVec.toNat_append, ← Nat.shiftLeft_add_eq_or_of_lt l.isLt, Nat.shiftLeft_eq]
  omega

theorem counterBlock_set_lo (tag : Byte) (nonce : Block) (n : Word16) (l : Byte) :
    (counterBlock tag nonce n).set 15 l = counterBlock tag nonce (be16 (hi8 n) l) := by
  simp only [counterBlock, hi8_be16, lo8_be16]
  rfl

theorem counterBlock_set_hi (tag : Byte) (nonce : Block) (n : Word16) (h : Byte) :
    (counterBlock tag nonce n).set 14 h = counterBlock tag nonce (be16 h (lo8 n)) := by
  simp only [counterBlock, hi8_be16, lo8_be16]
  rfl

theorem inc_ctrk (nonce : Block) {n : Nat} (hn : n < 65535) :
    inc (ctrk nonce (BitVec.ofNat 16 n)) = some (ctrk nonce (BitVec.ofNat 16 (n + 1))) := by
  have hn16 : (BitVec.ofNat 16 n).toNat = n := toNat_ofNat_of_le (by omega)
  have hsucc : (BitVec.ofNat 16 (n + 1)).toNat = n + 1 := toNat_ofNat_of_le hn
  have hhi := hi8_toNat (BitVec.ofNat 16 n)
  have hlo := lo8_toNat (BitVec.ofNat 16 n)
  have hone : (1 : Byte).toNat = 1 := rfl
  have hzero : (0x00 : Byte).toNat = 0 := rfl
  have hmax (b : Byte) : b = 0xFF ↔ b.toNat = 255 := BitVec.toNat_inj.symm
  unfold ctrk
  obtain ⟨h15, h⟩ | ⟨h15, h14, h⟩ | ⟨h15, h14, -⟩ := inc_cases (counterBlock tagKeystream nonce (BitVec.ofNat 16 n))
  case inl =>
    rw [counterBlock_lo, ne_eq, hmax] at h15
    have hnext : be16 (hi8 (BitVec.ofNat 16 n)) (lo8 (BitVec.ofNat 16 n) + 1) = BitVec.ofNat 16 (n + 1) := by
      apply BitVec.eq_of_toNat_eq
      rw [be16_toNat, BitVec.toNat_add, hone]
      omega
    rw [h, counterBlock_lo, counterBlock_set_lo, hnext]
  case inr.inl =>
    rw [counterBlock_lo, hmax] at h15
    rw [counterBlock_hi, ne_eq, hmax] at h14
    have hnext : be16 (hi8 (BitVec.ofNat 16 n) + 1) 0x00 = BitVec.ofNat 16 (n + 1) := by
      apply BitVec.eq_of_toNat_eq
      rw [be16_toNat, BitVec.toNat_add, hone, hzero]
      omega
    rw [h, counterBlock_hi, counterBlock_set_lo, counterBlock_set_hi, lo8_be16, hnext]
  case inr.inr =>
    rw [counterBlock_lo, hmax] at h15
    rw [counterBlock_hi, hmax] at h14
    omega

/-! ### What a list of words does to the CORE -/

/-- The words `ws`, issued one after another, take the CORE from `m` to `m'` in one step each, and their reads return
`bytes`, whatever the host has read before and issues after. -/
def Transacts (ws : List T16) (m m' : CoreState) (bytes : List Byte) : Prop :=
  ∀ (rest : List HostEvent) (reads : List Byte),
    run ws.length ⟨m, words ws ++ rest, reads⟩ = .next ⟨m', rest, reads ++ bytes⟩

theorem run_of_transacts {ws : List T16} {s : State} {m' : CoreState} {bytes : List Byte} {rest : List HostEvent}
    (h : Transacts ws s.core m' bytes) (hp : s.pending = words ws ++ rest) :
    run ws.length s = .next ⟨m', rest, s.reads ++ bytes⟩ := by
  obtain ⟨m, p, r⟩ := s
  cases hp
  exact h rest r

theorem Transacts.nil (m : CoreState) : Transacts [] m m [] := by
  intro rest reads
  simp

theorem Transacts.append {v w : List T16} {m m' m'' : CoreState} {a b : List Byte} (hv : Transacts v m m' a)
    (hw : Transacts w m' m'' b) : Transacts (v ++ w) m m'' (a ++ b) := by
  intro rest reads
  rw [List.length_append, words_append, List.append_assoc, run_add _ _ _ _ (hv (words w ++ rest) reads), hw,
    List.append_assoc]

theorem Transacts.cons {w : T16} {ws : List T16} {m m' m'' : CoreState} {a b : List Byte}
    (hw : Transacts [w] m m' a) (hws : Transacts ws m' m'' b) : Transacts (w :: ws) m m'' (a ++ b) :=
  hw.append hws

theorem transacts_of_step {w : T16} {m m' : CoreState} {bytes : List Byte}
    (h : ∀ (rest : List HostEvent) (reads : List Byte),
      exec (decode w) ⟨m, rest, reads⟩ = .next ⟨m', rest, reads ++ bytes⟩) : Transacts [w] m m' bytes := by
  intro rest reads
  rw [List.length_singleton, run_succ_of_next 0 _ ⟨m', rest, reads ++ bytes⟩, run_zero]
  exact (step_of_instr rfl rfl).trans (h rest reads)

theorem transacts_rd (off : Offset) (m : CoreState) : Transacts [asmRd off] m m [memRead off m] := by
  apply transacts_of_step
  intro rest reads
  rw [asmRd, decode_packWord_read, exec_rd]
  rfl

theorem transacts_wr {off : Offset} (d : Byte) (m : CoreState) (h : off ≠ cmdOffset) :
    Transacts [asmWr off d] m (storeLoc d m (locate off)) [] := by
  have hwf := (wellFormed_wr_iff off d).mpr fun e => absurd e h
  apply transacts_of_step
  intro rest reads
  rw [asmWr, decode_packWord_write, decodeWrite_of_wellFormed hwf, exec_wr_of_ne_cmd d _ h, List.append_nil]
  rfl

theorem transacts_command {i : Instr} {b : Byte} (m : CoreState) (h : opcodeOf i = some b) :
    Transacts [encode i] m (runCommand Config.cipher b m) [] := by
  apply transacts_of_step
  intro rest reads
  rw [decode_encode_of_opcode h, exec_of_commandByte _ (commandByte_of_opcode h), List.append_nil]
  rfl

/-! ### The commands of an unlocked CORE with a key -/

section
variable {m : CoreState} {key : Block}

theorem transacts_setkey (herr : m.err = false) : Transacts [encode .setkey] m
    { m with k := some m.key, key := zeroBlock, ctrv := false, accv := false } [] := by
  have h := transacts_command (i := .setkey) m rfl
  rw [runCommand_setkey] at h
  simpa [cmdSetkey, herr, setKey] using h

theorem transacts_ctrinit (herr : m.err = false) :
    Transacts [encode .ctrinit] m { m with ctr := ctr0 m.nonce, ctrv := true } [] := by
  have h := transacts_command (i := .ctrinit) m rfl
  rw [runCommand_ctrinit] at h
  simpa [cmdCtrinit, herr] using h

theorem transacts_ctrnext {c : Block} (herr : m.err = false) (hkey : m.k = some key) (hctrv : m.ctrv = true)
    (hinc : inc m.ctr = some c) :
    Transacts [encode .ctrnext] m { m with ctr := c, dout := blockXor (Config.cipher key c) m.din } [] := by
  have h := transacts_command (i := .ctrnext) m rfl
  rw [runCommand_ctrnext] at h
  simpa [cmdCtrnext, herr, hkey, hctrv, hinc, encryptBlock] using h

theorem transacts_hashinit (herr : m.err = false) (hkey : m.k = some key) :
    Transacts [encode .hashinit] m { m with acc := Config.cipher key (ctrh m.nonce m.len), accv := true } [] := by
  have h := transacts_command (i := .hashinit) m rfl
  rw [runCommand_hashinit] at h
  simpa [cmdHashinit, herr, hkey, encryptBlock] using h

theorem transacts_hashupd (herr : m.err = false) (hkey : m.k = some key) (haccv : m.accv = true) :
    Transacts [encode .hashupd] m { m with acc := Config.cipher key (blockXor m.acc m.din) } [] := by
  have h := transacts_command (i := .hashupd) m rfl
  rw [runCommand_hashupd] at h
  simpa [cmdHashupd, herr, hkey, haccv, encryptBlock] using h

theorem transacts_offset (herr : m.err = false) (hkey : m.k = some key) :
    Transacts [encode .offset] m { m with dout := blockXor (Config.cipher key (ctr0 m.nonce)) m.din } [] := by
  have h := transacts_command (i := .offset) m rfl
  rw [runCommand_offset] at h
  simpa [cmdMask, herr, hkey, encryptBlock] using h

end

/-! ### WR16, RD16, SETLEN (R54) -/

/-- The contents of a 16-byte register. -/
def regOf (m : CoreState) : Reg16 → Block
  | .key => m.key
  | .nonce => m.nonce
  | .din => m.din
  | .dout => m.dout
  | .ctr => m.ctr
  | .acc => m.acc

/-- A host's write of a whole 16-byte register: DOUT, CTR and ACC ignore it (R34). -/
def writeReg (r : Reg16) (b : Block) (m : CoreState) : CoreState :=
  match r with
  | .key => { m with key := b }
  | .nonce => { m with nonce := b }
  | .din => { m with din := b }
  | .dout => m
  | .ctr => m
  | .acc => m

theorem writeReg_regOf (r : Reg16) (m : CoreState) : writeReg r (regOf m r) m = m := by
  cases r <;> rfl

theorem storeLoc_writeReg (d : Byte) (r : Reg16) (i : Fin 16) (a : Block) (m : CoreState) :
    storeLoc d (writeReg r a m) (.byte r i) = writeReg r (a.set i d) m := by
  cases r <;> rfl

theorem readLoc_byte_of_ne_key {r : Reg16} (hr : r ≠ .key) (m : CoreState) (i : Fin 16) :
    readLoc m (.byte r i) = (regOf m r)[i] := by
  cases r with
  | key => contradiction
  | _ => rfl

theorem offOf_ne_cmd (r : Reg16) (i : Fin 16) : offOf r i ≠ cmdOffset := by
  rw [Ne, ← locate_eq_cmd, locate_offOf]
  exact Loc.noConfusion

/-- The block `a` with its bytes at the indices `is` overwritten by those of `b`, one after another. -/
def overwrite (b : Block) : List (Fin 16) → Block → Block
  | [], a => a
  | i :: is, a => overwrite b is (a.set i b[i])

theorem overwrite_getElem (b : Block) (is : List (Fin 16)) (a : Block) (j : Fin 16) :
    (overwrite b is a)[j] = if j ∈ is then b[j] else a[j] := by
  induction is generalizing a with
  | nil => simp [overwrite]
  | cons i is ih =>
    have hset : (a.set i b[i])[j] = if j = i then b[j] else a[j] := by
      by_cases hij : j = i
      · simp [hij]
      · have hval : i.val ≠ j.val := fun e => hij (Fin.ext e.symm)
        simp [hij, Vector.getElem_set_ne, hval]
    rw [overwrite, ih, hset]
    by_cases his : j ∈ is <;> simp [his]

theorem overwrite_finRange (b a : Block) : overwrite b (List.finRange 16) a = b := by
  ext j hj : 1
  have h := overwrite_getElem b (List.finRange 16) a ⟨j, hj⟩
  simpa using h

theorem transacts_wrBytes (r : Reg16) (b : Block) (is : List (Fin 16)) (a : Block) (m : CoreState) :
    Transacts (is.map fun i => asmWr (offOf r i) b[i]) (writeReg r a m) (writeReg r (overwrite b is a) m) [] := by
  induction is generalizing a with
  | nil => exact Transacts.nil _
  | cons i is ih =>
    have hbyte := transacts_wr b[i] (writeReg r a m) (offOf_ne_cmd r i)
    rw [locate_offOf, storeLoc_writeReg] at hbyte
    exact hbyte.cons (ih (a.set i b[i]))

theorem transacts_wr16 (r : Reg16) (b : Block) (m : CoreState) : Transacts (wr16 r b) m (writeReg r b m) [] := by
  have h := transacts_wrBytes r b (List.finRange 16) (regOf m r) m
  rwa [overwrite_finRange, writeReg_regOf] at h

theorem transacts_rdBytes (r : Reg16) (is : List (Fin 16)) (m : CoreState) :
    Transacts (is.map fun i => asmRd (offOf r i)) m m (is.map fun i => readLoc m (.byte r i)) := by
  induction is with
  | nil => exact Transacts.nil m
  | cons i is ih =>
    have hbyte := transacts_rd (offOf r i) m
    rw [memRead, locate_offOf] at hbyte
    exact hbyte.cons ih

theorem map_getElem_finRange (b : Block) : ((List.finRange 16).map fun i => b[i]) = b.toList := by
  apply List.ext_getElem
  · simp
  · simp

theorem transacts_rd16 {r : Reg16} (hr : r ≠ .key) (m : CoreState) :
    Transacts (rd16 r) m m (regOf m r).toList := by
  have h := transacts_rdBytes r (List.finRange 16) m
  simp only [readLoc_byte_of_ne_key hr] at h
  rwa [map_getElem_finRange] at h

theorem transacts_setLen (len : Word16) (m : CoreState) : Transacts (setLen len) m { m with len := len } [] := by
  have hhi := transacts_wr (off := 0x60#7) (hi8 len) m (by decide)
  rw [locate_lenHi, storeLoc] at hhi
  have hlo := transacts_wr (off := 0x61#7) (lo8 len) { m with len := be16 (hi8 len) (lo8 m.len) } (by decide)
  rw [locate_lenLo, storeLoc, hi8_be16, be16_hi8_lo8] at hlo
  exact hhi.cons hlo

/-! ### Lengths of the expansions -/

@[simp] theorem wr16_length (r : Reg16) (b : Block) : (wr16 r b).length = 16 := by simp [wr16]
@[simp] theorem rd16_length (r : Reg16) : (rd16 r).length = 16 := by simp [rd16]
@[simp] theorem setLen_length (len : Word16) : (setLen len).length = 2 := rfl
@[simp] theorem wholeBlocks_length (x : List Byte) : (wholeBlocks x).length = x.length / 16 := by simp [wholeBlocks]
theorem loadKey_length (b : Block) : (loadKey b).length = 17 := by simp [loadKey]
theorem offsMsg_length (nonce v : Block) : (offsMsg nonce v).length = 49 := by simp [offsMsg]

theorem ksMsg_length {nonce : Block} {x : List Byte} {ws : List T16} (hx : x.length / 16 ≤ 65535)
    (hws : ksMsg nonce x = some ws) : ws.length = 17 + 33 * (x.length / 16) := by
  rw [ksMsg_of_le hx] at hws
  cases hws
  simp only [List.length_append, List.length_cons, List.length_flatMap, List.map_const',
    List.sum_replicate, wr16_length, rd16_length, wholeBlocks_length, smul_eq_mul]
  omega

theorem hashMsg_length {nonce : Block} {x : List Byte} {ws : List T16} (hx : x.length ≤ 65535)
    (hws : hashMsg nonce x = some ws) : ws.length = 35 + 17 * (x.length / 16) := by
  rw [hashMsg_of_le hx] at hws
  cases hws
  simp only [List.length_append, List.length_cons, List.length_flatMap, List.length_nil, List.map_const',
    List.sum_replicate, wr16_length, rd16_length, setLen_length, wholeBlocks_length, smul_eq_mul]
  omega

/-! ### The pseudo-instructions of a message (R55 to R57) -/

theorem transacts_loadKey (b : Block) {m : CoreState} (herr : m.err = false) : Transacts (loadKey b) m
    { m with k := some b, key := zeroBlock, ctrv := false, accv := false } [] :=
  (transacts_wr16 .key b m).append (transacts_setkey (m := { m with key := b }) herr)

section
variable {m : CoreState} {key : Block}

/-- One block of KS.MSG: the counter advances and the block's output is read. -/
theorem transacts_ksBlock (nonce b : Block) {i : Nat} (herr : m.err = false) (hkey : m.k = some key)
    (hctrv : m.ctrv = true) (hctr : m.ctr = ctrk nonce (BitVec.ofNat 16 i)) (hi : i < 65535) :
    let c := ctrk nonce (BitVec.ofNat 16 (i + 1))
    let out := blockXor (Config.cipher key c) b
    Transacts (wr16 .din b ++ encode .ctrnext :: rd16 .dout) m { m with din := b, ctr := c, dout := out }
      out.toList := by
  intro c out
  have hinc : inc m.ctr = some c := hctr ▸ inc_ctrk nonce hi
  have hnext := transacts_ctrnext (m := { m with din := b }) herr hkey hctrv hinc
  exact (transacts_wr16 .din b m).append (hnext.cons (transacts_rd16 (r := .dout) (by decide) _))

/-- The blocks of KS.MSG from index `i` on, by induction on the blocks. -/
theorem transacts_ksBlocks (nonce : Block) (bs : List Block) {i : Nat} (herr : m.err = false) (hkey : m.k = some key)
    (hctrv : m.ctrv = true) (hctr : m.ctr = ctrk nonce (BitVec.ofNat 16 i)) (hi : i + bs.length ≤ 65535) :
    ∃ din dout, Transacts (bs.flatMap fun b => wr16 .din b ++ encode .ctrnext :: rd16 .dout) m
      { m with din := din, dout := dout, ctr := ctrk nonce (BitVec.ofNat 16 (i + bs.length)) }
      (blocksBytes (ksFrom Config.cipher key nonce i bs)) := by
  induction bs generalizing i m with
  | nil =>
    refine ⟨m.din, m.dout, ?_⟩
    rw [List.length_nil, Nat.add_zero, ← hctr]
    exact Transacts.nil m
  | cons b bs ih =>
    rw [List.length_cons] at hi ⊢
    have hblock := transacts_ksBlock nonce b herr hkey hctrv hctr (by omega)
    obtain ⟨din, dout, hrest⟩ := ih (i := i + 1) (m := { m with
      din := b
      ctr := ctrk nonce (BitVec.ofNat 16 (i + 1))
      dout := blockXor (Config.cipher key (ctrk nonce (BitVec.ofNat 16 (i + 1)))) b }) herr hkey hctrv rfl (by omega)
    rw [Nat.add_right_comm, Nat.add_assoc] at hrest
    exact ⟨din, dout, hblock.append hrest⟩

/-- The blocks of HASH.MSG, by induction on the blocks: ACC runs through the chain. -/
theorem transacts_hashBlocks (bs : List Block) (herr : m.err = false) (hkey : m.k = some key)
    (haccv : m.accv = true) :
    ∃ din, Transacts (bs.flatMap fun b => wr16 .din b ++ [encode .hashupd]) m
      { m with din := din, acc := hashChain Config.cipher key m.acc bs } [] := by
  induction bs generalizing m with
  | nil => exact ⟨m.din, Transacts.nil m⟩
  | cons b bs ih =>
    have hupd := transacts_hashupd (m := { m with din := b }) herr hkey haccv
    obtain ⟨din, hrest⟩ :=
      ih (m := { m with din := b, acc := Config.cipher key (blockXor m.acc b) }) herr hkey haccv
    exact ⟨din, ((transacts_wr16 .din b m).append hupd).append hrest⟩

theorem transacts_ksMsg {nonce : Block} {x : List Byte} {ws : List T16} (hx : x.length / 16 ≤ 65535)
    (hws : ksMsg nonce x = some ws) (herr : m.err = false) (hkey : m.k = some key) :
    ∃ din dout, Transacts ws m
      { m with nonce := nonce, din := din, dout := dout, ctr := ctrk nonce (BitVec.ofNat 16 (x.length / 16)),
               ctrv := true }
      (blocksBytes (ksFrom Config.cipher key nonce 0 (wholeBlocks x))) := by
  rw [ksMsg_of_le hx] at hws
  cases hws
  have hinit := transacts_ctrinit (m := { m with nonce := nonce }) herr
  obtain ⟨din, dout, hblocks⟩ := transacts_ksBlocks (i := 0)
    (m := { m with nonce := nonce, ctr := ctr0 nonce, ctrv := true }) nonce (wholeBlocks x) herr hkey rfl rfl
    (by simpa using hx)
  rw [Nat.zero_add, wholeBlocks_length] at hblocks
  exact ⟨din, dout, (transacts_wr16 .nonce nonce m).append (hinit.cons hblocks)⟩

theorem transacts_hashMsg {nonce : Block} {x : List Byte} {ws : List T16} (hx : x.length ≤ 65535)
    (hws : hashMsg nonce x = some ws) (herr : m.err = false) (hkey : m.k = some key) :
    ∃ din tag, hashTag Config.cipher key nonce x = some tag ∧ Transacts ws m
      { m with nonce := nonce, len := BitVec.ofNat 16 x.length, din := din, acc := tag, accv := true } tag.toList := by
  rw [hashMsg_of_le hx] at hws
  cases hws
  have hstaged := (transacts_wr16 .nonce nonce m).append
    (transacts_setLen (BitVec.ofNat 16 x.length) { m with nonce := nonce })
  have hinit := transacts_hashinit (m := { m with nonce := nonce, len := BitVec.ofNat 16 x.length }) herr hkey
  obtain ⟨din, hblocks⟩ := transacts_hashBlocks (m := { m with
    nonce := nonce
    len := BitVec.ofNat 16 x.length
    acc := Config.cipher key (ctrh nonce (BitVec.ofNat 16 x.length))
    accv := true }) (wholeBlocks x) herr hkey rfl
  exact ⟨din, _, hashTag_of_le hx,
    (hstaged.append (hinit.cons hblocks)).append (transacts_rd16 (r := .acc) (by decide) _)⟩

theorem transacts_offsMsg (nonce v : Block) (herr : m.err = false) (hkey : m.k = some key) :
    Transacts (offsMsg nonce v) m
      { m with nonce := nonce, din := v, dout := offs Config.cipher key nonce v }
      (offs Config.cipher key nonce v).toList := by
  have hstaged : Transacts (wr16 .nonce nonce ++ wr16 .din v) m { m with nonce := nonce, din := v } [] :=
    (transacts_wr16 .nonce nonce m).append (transacts_wr16 .din v { m with nonce := nonce })
  have hmask := transacts_offset (m := { m with nonce := nonce, din := v }) herr hkey
  exact hstaged.append (hmask.cons (transacts_rd16 (r := .dout) (by decide) _))

end

/-! ### The settled statements -/

/-- Settles O1: a plain write is well-formed only where it is no command, and a command decodes from its opcode. -/
theorem decodeEncodeRoundTrip : Obligations.DecodeEncodeRoundTrip := by
  intro i hwf
  cases i with
  | wr off d => rw [encode, decode_packWord_write, decodeWrite_of_wellFormed hwf]
  | rd off => rw [encode, decode_packWord_read]
  | _ => exact decode_encode_of_opcode rfl

/-- Settles O2: a word is packed from its own fields, and the write bit says which of the two kinds it is. -/
theorem everyWordDecodesCanonically : Obligations.EveryWordDecodesCanonically := by
  intro w
  have hbit : w.getLsbD 15 = isWriteWord w := rfl
  rw [hbit]
  have hfields := packWord_fields w
  cases hw : isWriteWord w <;> rw [hw] at hfields
  case true =>
    have hdec : decode w = decodeWrite (offField w) (dataField w) := by rw [← decode_packWord_write, hfields]
    rw [hdec, encode_decodeWrite]
    exact ⟨decodeWrite_wellFormed _ _, fun _ => hfields, fun h => Bool.noConfusion h⟩
  case false =>
    have hdec : decode w = .rd (offField w) := by rw [← decode_packWord_read _ (dataField w), hfields]
    have hlt : w.toNat < 32768 := by simpa [isWriteWord_eq] using hw
    refine ⟨by rw [hdec]; rfl, fun h => Bool.noConfusion h, fun _ => ⟨?_, offField w, hdec, ?_⟩⟩
    · rw [hdec, encode, ← packWord_and_high _ _ (dataField w), hfields]
    · rw [offField_toNat]
      omega

/-- Settles O51. -/
theorem loadKeyLoads : Obligations.LoadKeyLoads := by
  intro s b rest herr hp
  have hrun := run_of_transacts (transacts_loadKey b herr) hp
  rwa [loadKey_length, List.append_nil] at hrun

/-- Settles O52: CTRINIT sets index 0, and each block advances it by one. -/
theorem keystreamMessageComputesKs : Obligations.KeystreamMessageComputesKs := by
  intro nonce x hx
  have hws := ksMsg_of_le (nonce := nonce) hx
  have hlen := ksMsg_length hx hws
  refine ⟨_, hws, hlen, ?_⟩
  intro s key rest herr hkey hp
  obtain ⟨din, dout, h⟩ := transacts_ksMsg hx hws herr hkey
  have hrun := run_of_transacts h hp
  rw [hlen] at hrun
  exact ⟨_, _, hrun, ks_of_le hx, rfl, rfl, herr, rfl, rfl, rfl, hkey, rfl, rfl, rfl, rfl⟩

/-- Settles O53: HASHINIT takes the full length, and each block advances the chain. -/
theorem hashMessageComputesHash : Obligations.HashMessageComputesHash := by
  intro nonce x hx
  have hws := hashMsg_of_le (nonce := nonce) hx
  have hlen := hashMsg_length hx hws
  refine ⟨_, hws, hlen, ?_⟩
  intro s key rest herr hkey hp
  obtain ⟨din, tag, htag, h⟩ := transacts_hashMsg hx hws herr hkey
  have hrun := run_of_transacts h hp
  rw [hlen] at hrun
  exact ⟨_, tag, hrun, htag, rfl, rfl, rfl, rfl, herr, rfl, toNat_ofNat_of_le hx, hkey, rfl, rfl, rfl, rfl⟩

/-- Settles O56. -/
theorem offsetMessageComputesOffs : Obligations.OffsetMessageComputesOffs := by
  intro s key nonce v rest herr hkey hp
  have hrun := run_of_transacts (transacts_offsMsg nonce v herr hkey) hp
  rwa [offsMsg_length] at hrun

/-- Settles O3: each of the words is evaluated. -/
theorem sampleWordsDecode : Obligations.SampleWordsDecode := by
  unfold Obligations.SampleWordsDecode
  decide

end Sys2Proof.Proofs
end

section
/-! PROOFS. The statements about the counter block and its index (spec/40_counter_derivation.md). A counter block is
read byte by byte; a run's effect on the counter is put together from single steps, of which only a CTRNEXT moves it. -/

namespace Sys2Proof.Proofs

open Sys2Proof Sys2Proof.Machine

/-! ### The bytes of a counter block (R50, R51) -/

theorem counterBlock_nonce (tag : Byte) (nonce : Block) (n : Word16) (j : Nat) (hj : j < 13) :
    (counterBlock tag nonce n)[1 + j] = nonce[j] := by
  rw [counterBlock_getElem _ _ _ _ (by omega), if_neg (by omega), if_neg (by omega), if_neg (by omega)]
  simp only [Nat.add_sub_cancel_left]

/-- Layouts CB-K and CB-H differ in their mode tags (R60). -/
theorem ne_of_counterBlock_tag_ne {tag tag' : Byte} (h : tag ≠ tag') (nonce nonce' : Block) (n n' : Word16) :
    counterBlock tag nonce n ≠ counterBlock tag' nonce' n' := fun heq =>
  h (by rw [← counterBlock_tag tag nonce n, heq, counterBlock_tag])

/-! ### Where an increment has a value (R61, R62) -/

theorem inc_eq_none_iff (b : Block) : inc b = none ↔ b[14] = 0xFF ∧ b[15] = 0xFF := by
  obtain ⟨h15, h⟩ | ⟨-, h14, h⟩ | ⟨h15, h14, h⟩ := inc_cases b <;> rw [h]
  · exact ⟨nofun, fun htop => absurd htop.2 h15⟩
  · exact ⟨nofun, fun htop => absurd htop.1 h14⟩
  · exact ⟨fun _ => ⟨h14, h15⟩, fun _ => rfl⟩

theorem byte_succ_toNat {d : Byte} (h : d ≠ 0xFF) : (d + 1).toNat = d.toNat + 1 := by
  have hmax : d.toNat ≠ 255 := fun e => h (BitVec.eq_of_toNat_eq e)
  have hone : (1 : Byte).toNat = 1 := rfl
  rw [BitVec.toNat_add, hone]
  omega

theorem inc_ctrk_top (nonce : Block) : inc (ctrk nonce (BitVec.ofNat 16 65535)) = none :=
  (inc_eq_none_iff _).mpr ⟨rfl, rfl⟩

/-- An increment that has a value takes the index to the next one, below 65535. -/
theorem eq_of_inc_ctrk {nonce c : Block} {i : Nat} (hi : i ≤ 65535)
    (h : inc (ctrk nonce (BitVec.ofNat 16 i)) = some c) : i < 65535 ∧ c = ctrk nonce (BitVec.ofNat 16 (i + 1)) := by
  obtain rfl | hlt := Nat.eq_or_lt_of_le hi
  · rw [inc_ctrk_top] at h
    cases h
  · rw [inc_ctrk nonce hlt] at h
    exact ⟨hlt, (Option.some.inj h).symm⟩

theorem inc_ctrk_of_ne_max (nonce : Block) {i : Word16} (h : i ≠ 0xFFFF) :
    inc (ctrk nonce i) = some (ctrk nonce (i + 1)) := by
  have hlt : i.toNat < 65535 := by
    have hmax : i.toNat ≠ 65535 := fun e => h (BitVec.eq_of_toNat_eq e)
    have := i.isLt
    omega
  have hinc := inc_ctrk nonce hlt
  rwa [BitVec.ofNat_add, BitVec.ofNat_toNat, BitVec.setWidth_eq] at hinc

theorem iterate_inc_ctr0 (nonce : Block) {n : Nat} (hn : n ≤ 65535) :
    (fun o : Option Block => o.bind inc)^[n] (some (ctr0 nonce)) = some (ctrk nonce (BitVec.ofNat 16 n)) := by
  induction n with
  | zero => rfl
  | succ n ih => rw [Function.iterate_succ_apply', ih (by omega), Option.bind_some, inc_ctrk nonce hn]

/-! ### CTR[0..14] (R24) -/

theorem runCommand_keeps_ctr_head (E : Cipher) {b : Byte} (m : CoreState) (hinit : b ≠ opCtrinit)
    (hreset : b ≠ opSreset) (j : Nat) (hj : j < 14) : (runCommand E b m).ctr[j] = m.ctr[j] := by
  have heff := runCommand_effect E b m
  generalize runCommand E b m = r at heff ⊢
  cases heff with
  | sreset => exact absurd rfl hreset
  | ctrinit => exact absurd rfl hinit
  | ctrnext key c _ _ _ hinc => exact getElem_of_inc hinc j hj
  | _ => rfl

theorem runCommand_ctrinit_of_unlocked (E : Cipher) {m : CoreState} (herr : m.err = false) :
    runCommand E opCtrinit m = { m with ctr := ctr0 m.nonce, ctrv := true } := by
  rw [runCommand_ctrinit, cmdCtrinit, if_neg (by simp [herr])]

/-! ### Runs, event by event -/

theorem exec_of_step {s t : State} {e : HostEvent} {rest : List HostEvent} (hp : s.pending = e :: rest)
    (hstep : step s = .next t) : ∃ i, e.command = commandByte i ∧ exec i { s with pending := rest } = .next t := by
  obtain ⟨i, hi, h⟩ | ⟨r, -, h⟩ := step_event s e rest hp <;> rw [h] at hstep
  · exact ⟨i, by rw [HostEvent.command, hi, Option.bind_some], hstep⟩
  · cases hstep

theorem pending_of_exec {i : Instr} {s t : State} (h : exec i s = .next t) : t.pending = s.pending := by
  obtain ⟨u, hu, hpend⟩ := exec_next i s
  cases hu.symm.trans h
  exact hpend

theorem pending_of_step {s t : State} (h : step s = .next t) : t.pending = s.pending.drop 1 := by
  cases hp : s.pending with
  | nil => rw [step_idle hp] at h; cases h; exact hp
  | cons e rest =>
    obtain ⟨i, -, hexec⟩ := exec_of_step hp h
    exact pending_of_exec hexec

/-- A run takes one event a step, in order (R40). -/
theorem pending_of_run {n : Nat} {s t : State} (h : run n s = .next t) : t.pending = s.pending.drop n := by
  induction n generalizing t with
  | zero => cases h; rfl
  | succ n ih =>
    obtain ⟨u, hu, hstep⟩ := run_last n s t h
    rw [pending_of_step hstep, ih hu, List.drop_drop]

/-- The events of a run of one step more: those of the run, and the one its last step takes. -/
theorem take_succ_of_run {n : Nat} {s u : State} (h : run n s = .next u) :
    s.pending.take (n + 1) = s.pending.take n ++ u.pending.take 1 := by
  rw [pending_of_run h, List.take_add]

/-- What a step keeps whose event is of a certain kind, a run keeps whose events are. -/
theorem run_keeps {α : Type} {f : CoreState → α} {p : HostEvent → Prop}
    (hkeeps : ∀ s t : State, (∀ e ∈ s.pending.take 1, p e) → step s = .next t → f t.core = f s.core)
    {n : Nat} {s t : State} (hev : ∀ e ∈ s.pending.take n, p e) (hrun : run n s = .next t) : f t.core = f s.core := by
  induction n generalizing t with
  | zero => cases hrun; rfl
  | succ n ih =>
    obtain ⟨u, hu, hstep⟩ := run_last n s t hrun
    rw [take_succ_of_run hu, List.forall_mem_append] at hev
    obtain ⟨hbefore, hlast⟩ := hev
    rw [hkeeps u t hlast hstep, ih hbefore hu]

/-- DOUT is written by CTRNEXT, OFFSET and SRESET alone (R15). -/
theorem dout_of_step {s t : State}
    (hev : ∀ e ∈ s.pending.take 1, e.command ∉ [some opCtrnext, some opOffset, some opSreset])
    (hstep : step s = .next t) : t.core.dout = s.core.dout := by
  cases hp : s.pending with
  | nil => rw [step_idle hp] at hstep; cases hstep; rfl
  | cons e rest =>
    obtain ⟨i, hcmd, hexec⟩ := exec_of_step hp hstep
    obtain ⟨-, -, -, -, hdout, -⟩ := onlyListedWritersChange i _ _ hexec
    by_contra hne
    exact hev e (by simp [hp]) (hcmd ▸ hdout hne)

/-! ### The counter at an index (R23, R72) -/

/-- The CORE has the key and its counter stands at index `i` of the nonce's keystream. -/
structure KeystreamAt (key nonce : Block) (i : Nat) (m : CoreState) : Prop where
  index_le : i ≤ 65535
  k_eq : m.k = some key
  ctrv_eq : m.ctrv = true
  ctr_eq : m.ctr = ctrk nonce (BitVec.ofNat 16 i)

/-- The number of CTRNEXTs among the host's events. -/
def ctrnexts (es : List HostEvent) : Nat := es.countP fun e => e.command == some opCtrnext

theorem ctrnexts_append (es fs : List HostEvent) : ctrnexts (es ++ fs) = ctrnexts es + ctrnexts fs :=
  List.countP_append ..

theorem ctrnexts_singleton (e : HostEvent) : ctrnexts [e] = if e.command = some opCtrnext then 1 else 0 := by
  simp [ctrnexts, List.countP_singleton]

section
variable {key nonce : Block} {i : Nat}

/-- A CTRNEXT that does not lock the CORE advances the counter, and DOUT takes the block (R71). -/
theorem KeystreamAt.of_ctrnext {E : Cipher} {m : CoreState} (h : KeystreamAt key nonce i m)
    (herr : (cmdCtrnext E m).err = false) :
    KeystreamAt key nonce (i + 1) (cmdCtrnext E m) ∧
      (cmdCtrnext E m).dout = blockXor (E key (cmdCtrnext E m).ctr) (cmdCtrnext E m).din := by
  obtain ⟨hi, hkey, hctrv, hctr⟩ := h
  obtain ⟨he, heq⟩ | ⟨-, -, heq⟩ | ⟨-, -, -, heq⟩ | ⟨-, -, -, -, heq⟩ | ⟨key', c, -, hk, -, hinc, heq⟩ :=
    cmdCtrnext_cases E m <;> rw [heq] at herr ⊢
  · rw [he] at herr; cases herr
  · cases herr
  · cases herr
  · cases herr
  · obtain rfl : key = key' := Option.some.inj (hkey.symm.trans hk)
    obtain ⟨hlt, rfl⟩ := eq_of_inc_ctrk hi (hctr ▸ hinc)
    exact ⟨⟨hlt, hkey, hctrv, rfl⟩, rfl⟩

/-- An instruction other than CTRNEXT, SETKEY, CTRINIT and SRESET leaves the counter where it is (R15, R17). -/
theorem KeystreamAt.of_exec_other {a : Instr} {s t : State} (h : KeystreamAt key nonce i s.core)
    (ha : commandByte a ∉ [some opSetkey, some opCtrinit, some opSreset]) (hnext : commandByte a ≠ some opCtrnext)
    (hexec : exec a s = .next t) : KeystreamAt key nonce i t.core := by
  obtain ⟨hi, hkey, hctrv, hctr⟩ := h
  obtain ⟨-, -, -, -, -, hctrW, -, hkW, hctrvW, -⟩ := onlyListedWritersChange a s t hexec
  simp only [List.mem_cons, List.not_mem_nil, or_false, not_or] at ha hctrW hkW hctrvW
  obtain ⟨hset, hinit, hreset⟩ := ha
  have hctrEq := not_ne_iff.mp (mt hctrW (not_or_intro hinit (not_or_intro hnext hreset)))
  have hkEq := not_ne_iff.mp (mt hkW (not_or_intro hset hreset))
  have hctrvEq := not_ne_iff.mp (mt hctrvW (not_or_intro hset (not_or_intro hinit hreset)))
  exact ⟨hi, hkEq.trans hkey, hctrvEq.trans hctrv, hctrEq.trans hctr⟩

/-- A step that ends unlocked advances the counter by the CTRNEXT it performs, if it performs one, and that leaves its
block in DOUT. -/
theorem KeystreamAt.of_step {s t : State} (h : KeystreamAt key nonce i s.core)
    (hev : ∀ e ∈ s.pending.take 1, e.command ∉ [some opSetkey, some opCtrinit, some opSreset])
    (hstep : step s = .next t) (herr : t.core.err = false) :
    KeystreamAt key nonce (i + ctrnexts (s.pending.take 1)) t.core ∧
      (∀ e ∈ s.pending.take 1, e.command = some opCtrnext →
        t.core.dout = blockXor (Config.cipher key t.core.ctr) t.core.din) := by
  cases hp : s.pending with
  | nil =>
    rw [step_idle hp] at hstep
    cases hstep
    exact ⟨h, by simp⟩
  | cons e rest =>
    obtain ⟨a, hcmd, hexec⟩ := exec_of_step hp hstep
    have ha := hev e (by simp [hp])
    simp only [List.take_succ_cons, List.take_zero, List.mem_singleton, forall_eq]
    by_cases hnext : e.command = some opCtrnext
    · rw [ctrnexts_singleton, if_pos hnext]
      rw [exec_of_commandByte _ (hcmd ▸ hnext)] at hexec
      cases hexec
      rw [State.onCore_core, runCommand_ctrnext] at herr ⊢
      obtain ⟨hat, hdout⟩ := KeystreamAt.of_ctrnext h herr
      exact ⟨hat, fun _ => hdout⟩
    · rw [ctrnexts_singleton, if_neg hnext]
      rw [hcmd] at ha hnext
      rw [hcmd]
      exact ⟨KeystreamAt.of_exec_other (s := { s with pending := rest }) h ha hnext hexec, fun h => absurd h hnext⟩

/-- A run that is never locked advances the counter by its CTRNEXTs, by induction on its steps; where the last of them
performs a CTRNEXT, DOUT holds its block. -/
theorem KeystreamAt.of_run {n : Nat} {s t : State} (h : KeystreamAt key nonce i s.core)
    (hev : ∀ e ∈ s.pending.take n, e.command ∉ [some opSetkey, some opCtrinit, some opSreset])
    (hunlocked : ∀ (m : Nat) (u : State), m ≤ n → run m s = .next u → u.core.err = false)
    (hrun : run n s = .next t) :
    KeystreamAt key nonce (i + ctrnexts (s.pending.take n)) t.core ∧
      (∀ (m : Nat) (e : HostEvent), n = m + 1 → s.pending[m]? = some e → e.command = some opCtrnext →
        t.core.dout = blockXor (Config.cipher key t.core.ctr) t.core.din) := by
  induction n generalizing t with
  | zero => cases hrun; exact ⟨h, nofun⟩
  | succ n ih =>
    obtain ⟨u, hu, hstep⟩ := run_last n s t hrun
    rw [take_succ_of_run hu, List.forall_mem_append] at hev
    obtain ⟨hbefore, hlast⟩ := hev
    obtain ⟨hbetween, -⟩ := ih hbefore (fun m v hm => hunlocked m v (Nat.le_succ_of_le hm)) hu
    obtain ⟨hend, hdout⟩ := hbetween.of_step hlast hstep (hunlocked (n + 1) t (Nat.le_refl _) hrun)
    rw [take_succ_of_run hu, ctrnexts_append, ← Nat.add_assoc]
    refine ⟨hend, fun m e hm he => hdout e ?_⟩
    obtain rfl : n = m := Nat.succ.inj hm
    rw [pending_of_run hu]
    exact List.mem_of_getElem? (i := 0) (by simpa using he)

end

/-! ### CTRINIT and the CTRNEXTs after it (R23, R122) -/

theorem transacts_ctrnexts (nonce : Block) {m : CoreState} {key : Block} {i : Nat} (n : Nat) (herr : m.err = false)
    (hkey : m.k = some key) (hctrv : m.ctrv = true) (hctr : m.ctr = ctrk nonce (BitVec.ofNat 16 i))
    (hi : i + n ≤ 65535) :
    ∃ dout, Transacts (List.replicate n (encode .ctrnext)) m
      { m with ctr := ctrk nonce (BitVec.ofNat 16 (i + n)), dout := dout } [] := by
  induction n generalizing i m with
  | zero =>
    refine ⟨m.dout, ?_⟩
    rw [Nat.add_zero, ← hctr]
    exact Transacts.nil m
  | succ n ih =>
    have hnext := transacts_ctrnext herr hkey hctrv (hctr ▸ inc_ctrk nonce (by omega))
    obtain ⟨dout, hrest⟩ := ih (i := i + 1) (m := { m with
      ctr := ctrk nonce (BitVec.ofNat 16 (i + 1))
      dout := blockXor (Config.cipher key (ctrk nonce (BitVec.ofNat 16 (i + 1)))) m.din }) herr hkey hctrv rfl
      (by omega)
    rw [Nat.add_right_comm, Nat.add_assoc] at hrest
    exact ⟨dout, hnext.cons hrest⟩

theorem transacts_ctrinit_ctrnexts {m : CoreState} {key : Block} {n : Nat} (herr : m.err = false)
    (hkey : m.k = some key) (hn : n ≤ 65535) :
    ∃ dout, Transacts (encode .ctrinit :: List.replicate n (encode .ctrnext)) m
      { m with ctr := ctrk m.nonce (BitVec.ofNat 16 n), ctrv := true, dout := dout } [] := by
  obtain ⟨dout, h⟩ := transacts_ctrnexts (i := 0) (m := { m with ctr := ctr0 m.nonce, ctrv := true }) m.nonce n herr
    hkey rfl rfl (by omega)
  rw [Nat.zero_add] at h
  exact ⟨dout, (transacts_ctrinit herr).cons h⟩

theorem words_replicate (n : Nat) (w : T16) : words (List.replicate n w) = List.replicate n (.word w) :=
  List.map_replicate ..

/-- The 65536th block: CTRNEXT at index 65535 latches CTRWRAP (R122). -/
theorem step_ctrnext_at_top {s : State} {rest : List HostEvent} {key nonce : Block} (herr : s.core.err = false)
    (h : KeystreamAt key nonce 65535 s.core) (hp : s.pending = .word (encode .ctrnext) :: rest) :
    step s = .next { s with pending := rest, core := raise .ctrwrap opCtrnext s.core } := by
  have hcmd : cmdCtrnext Config.cipher s.core = raise .ctrwrap opCtrnext s.core := by
    simp [cmdCtrnext, herr, h.k_eq, h.ctrv_eq, h.ctr_eq, inc_ctrk_top]
  rw [step_of_instr hp rfl, decode_encode_of_opcode rfl, exec_of_commandByte _ rfl, State.onCore, runCommand_ctrnext,
    hcmd]

/-! ### The settled statements -/

/-- Settles O8: each index below 65535 has a next one, and `n` of them follow index 0. -/
theorem incrementAdvancesIndex : Obligations.IncrementAdvancesIndex := by
  intro nonce
  refine ⟨fun i => ⟨rfl, counterBlock_nonce _ nonce i, ?hi, ?lo⟩, rfl, fun i => inc_ctrk_of_ne_max nonce,
    fun n => iterate_inc_ctr0 nonce⟩
  case hi => rw [ctrk, counterBlock_hi, hi8_toNat]
  case lo => rw [ctrk, counterBlock_lo, lo8_toNat]

/-- Settles O33: an increment keeps the bytes 0 to 13, and away from a command byte nothing writes CTR. -/
theorem counterPrefixKept : Obligations.CounterPrefixKept := by
  intro i s t hexec
  constructor
  · intro hinit hreset j hj
    obtain ⟨-, -, -, -, -, hctr, -⟩ := onlyListedWritersChange i s t hexec
    cases hb : commandByte i with
    | none =>
      have heq : t.core.ctr = s.core.ctr := by
        by_contra hne
        simpa [hb] using hctr hne
      rw [heq]
    | some b =>
      rw [exec_of_commandByte s hb] at hexec
      cases hexec
      rw [hb] at hinit hreset
      exact runCommand_keeps_ctr_head _ _ (fun e => hinit (congrArg some e)) (fun e => hreset (congrArg some e)) j hj
  · intro hinit herr
    rw [exec_of_commandByte s hinit] at hexec
    cases hexec
    rw [State.onCore_core, runCommand_ctrinit_of_unlocked _ herr]
    exact ⟨rfl, counterBlock_nonce _ s.core.nonce 0⟩

/-- Settles O54: `KeystreamAt.of_run` says it of the counter and the last block, and no other event writes DOUT. -/
theorem interleavedKeystreamCounts : Obligations.InterleavedKeystreamCounts := by
  intro n s t key nonce i hkey hctrv hi hctr hev hunlocked hrun
  have hstart : KeystreamAt key nonce i s.core := ⟨hi, hkey, hctrv, hctr⟩
  obtain ⟨⟨hle, hk, hv, hc⟩, hlast⟩ := hstart.of_run hev hunlocked hrun
  refine ⟨hle, hc, hv, hk, fun hno => ?_, hlast⟩
  refine run_keeps (f := CoreState.dout) (fun _ _ => dout_of_step) (fun e he => ?_) hrun
  have hkeyed := hev e he
  have hquiet := hno e he
  simp only [List.mem_cons, List.not_mem_nil, or_false, not_or] at hkeyed hquiet ⊢
  obtain ⟨-, -, hreset⟩ := hkeyed
  obtain ⟨hnext, hoffset⟩ := hquiet
  exact ⟨hnext, hoffset, hreset⟩

/-- Settles O57: index `n` after `n` blocks, and no increment at 65535. -/
theorem counterCountsBlocks : Obligations.CounterCountsBlocks := by
  intro s key n rest herr hkey hn hp
  obtain ⟨dout, h⟩ := transacts_ctrinit_ctrnexts herr hkey hn
  have hrun := run_of_transacts (rest := rest) h (by rw [hp, words_cons, words_replicate]; rfl)
  rw [List.length_cons, List.length_replicate] at hrun
  refine ⟨_, hrun, rfl, herr, rfl, rfl, fun htop rest' hrest => ?_⟩
  subst htop
  exact step_ctrnext_at_top herr ⟨Nat.le_refl _, hkey, rfl, rfl⟩ hrest

/-- Settles O4. -/
theorem startingCounterBytes : Obligations.StartingCounterBytes := by
  intro nonce
  exact ⟨rfl, counterBlock_nonce _ nonce 0, rfl, rfl, fun nonce' h => counterBlock_congr h _ _⟩

/-- Settles O5. -/
theorem hashCounterBytes : Obligations.HashCounterBytes := by
  intro nonce len
  refine ⟨rfl, counterBlock_nonce _ nonce len, ?hi, ?lo⟩
  case hi => rw [ctrh, counterBlock_hi, hi8_toNat]
  case lo => rw [ctrh, counterBlock_lo, lo8_toNat]

/-- Settles O6: one case of `inc` for each of the two ways a value arises. -/
theorem incrementBytes : Obligations.IncrementBytes := by
  intro b hb
  obtain ⟨h15, h⟩ | ⟨h15, h14, h⟩ | ⟨h15, h14, -⟩ := inc_cases b
  · refine ⟨_, h, getElem_of_inc h, fun _ => ⟨?_, ?_⟩, fun he => absurd he h15⟩
    · rw [Vector.getElem_set_self, byte_succ_toNat h15]
    · rw [Vector.getElem_set_ne _ _ (by decide)]
  · refine ⟨_, h, getElem_of_inc h, fun hne => absurd h15 hne, fun _ => ⟨?_, ?_⟩⟩
    · rw [Vector.getElem_set_ne _ _ (by decide), Vector.getElem_set_self]
    · rw [Vector.getElem_set_self, byte_succ_toNat h14]
  · exact absurd ⟨h14, h15⟩ hb

/-- Settles O7. -/
theorem incrementUndefinedAtTop : Obligations.IncrementUndefinedAtTop := inc_eq_none_iff

/-- Settles O9: the mode tags differ. -/
theorem keystreamAndHashBlocksDiffer : Obligations.KeystreamAndHashBlocksDiffer := fun nonce nonce' i len =>
  ne_of_counterBlock_tag_ne (by decide) nonce nonce' i len

/-- Settles O15: whether the CORE is locked is all that CTRINIT looks at. -/
theorem ctrinitResult : Obligations.CtrinitResult := by
  refine ⟨decode_encode_of_opcode (i := .ctrinit) rfl, fun s => ⟨fun herr => ?_, fun herr => ?_⟩⟩
  · rw [exec_of_commandByte s rfl, State.onCore, runCommand_ctrinit_of_unlocked _ herr]
  · rw [exec_of_commandByte s rfl, State.onCore, runCommand_ctrinit, cmdCtrinit, if_pos herr]

end Sys2Proof.Proofs
end

section
/-! PROOFS. The statements about the keystream (spec/41_ctr_keystream.md). The byte string of a list of blocks is taken
apart into the same blocks, and KS acts on them one by one, so both statements about KS are statements about blocks. -/

namespace Sys2Proof.Proofs

open Sys2Proof Sys2Proof.Machine

/-! ### Blocks and the bytes they are made of (R10, R68) -/

@[simp] theorem blocksBytes_nil : blocksBytes [] = [] := rfl
@[simp] theorem blocksBytes_cons (b : Block) (bs : List Block) : blocksBytes (b :: bs) = b.toList ++ blocksBytes bs :=
  List.flatMap_cons ..

@[simp] theorem blocksBytes_length (bs : List Block) : (blocksBytes bs).length = 16 * bs.length := by
  induction bs with
  | nil => rfl
  | cons b bs ih => rw [blocksBytes_cons, List.length_append, ih, Vector.length_toList, List.length_cons]; omega

theorem blocksBytes_getElem? (bs : List Block) (i : Nat) (j : Fin 16) :
    (blocksBytes bs)[16 * i + j.val]? = bs[i]?.map fun b => b[j] := by
  induction bs generalizing i with
  | nil => simp
  | cons b bs ih =>
    rw [blocksBytes_cons]
    cases i with
    | zero =>
      rw [List.getElem?_append_left (by rw [Vector.length_toList]; omega)]
      simp
    | succ i =>
      have hidx : 16 * (i + 1) + j.val - b.toList.length = 16 * i + j.val := by rw [Vector.length_toList]; omega
      rw [List.getElem?_append_right (by rw [Vector.length_toList]; omega), hidx, ih, List.getElem?_cons_succ]

theorem blockAt_getElem (x : List Byte) (i : Nat) (j : Fin 16) : (blockAt x i)[j] = x.getD (16 * i + j.val) 0 := by
  simp [blockAt]

theorem wholeBlocks_getElem? {x : List Byte} {i : Nat} (h : i < x.length / 16) :
    (wholeBlocks x)[i]? = some (blockAt x i) := by
  simp [wholeBlocks, h]

/-- A byte of a whole block is the byte of the string at its place; no default byte enters. -/
theorem getElem?_of_blockAt {x : List Byte} {i : Nat} (h : i < x.length / 16) (j : Fin 16) :
    x[16 * i + j.val]? = some (blockAt x i)[j] := by
  have hlt : 16 * i + j.val < x.length := by omega
  rw [blockAt_getElem, List.getD_eq_getElem _ _ hlt, List.getElem?_eq_getElem hlt]

theorem wholeBlocks_blocksBytes (bs : List Block) : wholeBlocks (blocksBytes bs) = bs := by
  have hcount : (blocksBytes bs).length / 16 = bs.length := by rw [blocksBytes_length]; omega
  refine List.ext_getElem (by rw [wholeBlocks_length, hcount]) fun i hi hi' => ?_
  have hwhole : i < (blocksBytes bs).length / 16 := hcount ▸ hi'
  rw [List.getElem_eq_iff, wholeBlocks_getElem? hwhole]
  congr 1
  ext j hj : 1
  have hbyte := getElem?_of_blockAt hwhole ⟨j, hj⟩
  rw [blocksBytes_getElem?, List.getElem?_eq_getElem hi'] at hbyte
  exact (Option.some.inj hbyte).symm

/-- Without a remainder the whole blocks make up the whole string. -/
theorem blocksBytes_wholeBlocks {x : List Byte} (h : x.length % 16 = 0) : blocksBytes (wholeBlocks x) = x := by
  have hlen : (blocksBytes (wholeBlocks x)).length = x.length := by
    rw [blocksBytes_length, wholeBlocks_length]; omega
  refine List.ext_getElem hlen fun p _ hp => ?_
  have hwhole : p / 16 < x.length / 16 := by omega
  have hbyte := getElem?_of_blockAt hwhole ⟨p % 16, Nat.mod_lt _ (by decide)⟩
  have hout := blocksBytes_getElem? (wholeBlocks x) (p / 16) ⟨p % 16, Nat.mod_lt _ (by decide)⟩
  rw [wholeBlocks_getElem? hwhole, Option.map_some, ← hbyte] at hout
  simp only [Nat.div_add_mod] at hout
  rwa [List.getElem_eq_iff, ← List.getElem?_eq_getElem hp]

/-! ### The keystream, block by block (R67) -/

section
variable (E : Cipher) (k nonce : Block)

theorem ksFrom_getElem? (n : Nat) (bs : List Block) (i : Nat) : (ksFrom E k nonce n bs)[i]? =
    bs[i]?.map fun b => blockXor (E k (ctrk nonce (BitVec.ofNat 16 (n + i + 1)))) b := by
  induction bs generalizing n i with
  | nil => rfl
  | cons b bs ih =>
    cases i with
    | zero => rfl
    | succ i =>
      have hidx : n + 1 + i + 1 = n + (i + 1) + 1 := by omega
      rw [ksFrom, List.getElem?_cons_succ, ih, List.getElem?_cons_succ, hidx]

@[simp] theorem ksFrom_length (n : Nat) (bs : List Block) : (ksFrom E k nonce n bs).length = bs.length := by
  induction bs generalizing n with
  | nil => rfl
  | cons b bs ih => rw [ksFrom, List.length_cons, ih, List.length_cons]

/-- The pads depend on the index alone, so the same ones cancel (R64 (b)). -/
theorem ksFrom_ksFrom (n : Nat) (bs : List Block) : ksFrom E k nonce n (ksFrom E k nonce n bs) = bs := by
  induction bs generalizing n with
  | nil => rfl
  | cons b bs ih => rw [ksFrom, ksFrom, blockXor_cancel, ih]

end

/-! ### CTRNEXT (R71) -/

theorem exec_ctrnext {s : State} {m : CoreState} (h : cmdCtrnext Config.cipher s.core = m) :
    exec .ctrnext s = .next { s with core := m } := by
  rw [exec_of_commandByte s rfl, State.onCore, runCommand_ctrnext, h]

section
variable (E : Cipher) {m : CoreState} {key c : Block}

theorem cmdCtrnext_of_locked (herr : m.err = true) : cmdCtrnext E m = m := if_pos herr

theorem cmdCtrnext_of_no_key (herr : m.err = false) (hkey : m.k = none) :
    cmdCtrnext E m = raise .nokey opCtrnext m := by
  simp [cmdCtrnext, herr, hkey]

theorem cmdCtrnext_of_no_ctr (herr : m.err = false) (hkey : m.k = some key) (hctrv : m.ctrv = false) :
    cmdCtrnext E m = raise .noctr opCtrnext m := by
  simp [cmdCtrnext, herr, hkey, hctrv]

theorem cmdCtrnext_of_wrap (herr : m.err = false) (hkey : m.k = some key) (hctrv : m.ctrv = true)
    (hinc : inc m.ctr = none) : cmdCtrnext E m = raise .ctrwrap opCtrnext m := by
  simp [cmdCtrnext, herr, hkey, hctrv, hinc]

theorem cmdCtrnext_of_inc (herr : m.err = false) (hkey : m.k = some key) (hctrv : m.ctrv = true)
    (hinc : inc m.ctr = some c) :
    cmdCtrnext E m = { m with ctr := c, dout := blockXor (E key c) m.din } := by
  simp [cmdCtrnext, herr, hkey, hctrv, hinc, encryptBlock]

end

/-! ### The settled statements -/

/-- Settles O47: the output is made of as many blocks, and the same pads meet them again. -/
theorem keystreamIsSelfInverse : Obligations.KeystreamIsSelfInverse := by
  intro E k nonce x hmod hx
  have hlen : (blocksBytes (ksFrom E k nonce 0 (wholeBlocks x))).length = x.length := by
    rw [blocksBytes_length, ksFrom_length, wholeBlocks_length]; omega
  refine ⟨_, ks_of_le hx, hlen, ?_⟩
  rw [ks_of_le (hlen ▸ hx), wholeBlocks_blocksBytes, ksFrom_ksFrom, blocksBytes_wholeBlocks hmod]

/-- Settles O48: byte `j` of output block `i` comes from byte `j` of input block `i`, whose pad has index `i + 1`. -/
theorem keystreamBytes : Obligations.KeystreamBytes := by
  intro E k nonce x hx
  refine ⟨_, ks_of_le hx, by rw [blocksBytes_length, ksFrom_length, wholeBlocks_length], fun i j hi => ?_⟩
  rw [blocksBytes_getElem?, ksFrom_getElem?, wholeBlocks_getElem? hi, getElem?_of_blockAt hi, Nat.zero_add]
  exact congrArg some (blockXor_getElem _ _ j.val j.isLt)

/-- Settles O16: the checks in their order, and an increment has a value unless both index bytes are 0xFF. -/
theorem ctrnextResult : Obligations.CtrnextResult := by
  refine ⟨decode_encode_of_opcode (i := .ctrnext) rfl, fun s => ⟨fun herr => ?locked, fun herr hkey => ?nokey,
    fun key herr hkey => ⟨fun hctrv => ?noctr, fun hctrv htop => ?wrap, fun hctrv hbelow => ?value⟩⟩⟩
  case locked => exact exec_ctrnext (cmdCtrnext_of_locked _ herr)
  case nokey => exact exec_ctrnext (cmdCtrnext_of_no_key _ herr hkey)
  case noctr => exact exec_ctrnext (cmdCtrnext_of_no_ctr _ herr hkey hctrv)
  case wrap => exact exec_ctrnext (cmdCtrnext_of_wrap _ herr hkey hctrv ((inc_eq_none_iff _).mpr htop))
  case value =>
    obtain ⟨c, hinc⟩ := Option.ne_none_iff_exists'.mp (mt (inc_eq_none_iff s.core.ctr).mp hbelow)
    exact ⟨c, hinc, exec_ctrnext (cmdCtrnext_of_inc _ herr hkey hctrv hinc)⟩

end Sys2Proof.Proofs
end

section
/-! PROOFS. The statements about the keyed hash (spec/42_keyed_hash.md). Over a run, K, ACCV and ACC each keep
their value where no event performs a command that writes the field, so only the HASHUPD at a run's end is left to look
at. -/

namespace Sys2Proof.Proofs

open Sys2Proof Sys2Proof.Machine

/-! ### HASHINIT and HASHUPD (R76, R77) -/

theorem exec_hashinit {s : State} {m : CoreState} (h : cmdHashinit Config.cipher s.core = m) :
    exec .hashinit s = .next { s with core := m } := by
  rw [exec_of_commandByte s rfl, State.onCore, runCommand_hashinit, h]

theorem exec_hashupd {s : State} {m : CoreState} (h : cmdHashupd Config.cipher s.core = m) :
    exec .hashupd s = .next { s with core := m } := by
  rw [exec_of_commandByte s rfl, State.onCore, runCommand_hashupd, h]

section
variable (E : Cipher) {m : CoreState} {key : Block}

theorem cmdHashinit_of_locked (herr : m.err = true) : cmdHashinit E m = m := if_pos herr

theorem cmdHashinit_of_no_key (herr : m.err = false) (hkey : m.k = none) :
    cmdHashinit E m = raise .nokey opHashinit m := by
  simp [cmdHashinit, herr, hkey]

theorem cmdHashinit_of_key (herr : m.err = false) (hkey : m.k = some key) :
    cmdHashinit E m = { m with acc := E key (ctrh m.nonce m.len), accv := true } := by
  simp [cmdHashinit, herr, hkey, encryptBlock]

theorem cmdHashupd_of_locked (herr : m.err = true) : cmdHashupd E m = m := if_pos herr

theorem cmdHashupd_of_no_key (herr : m.err = false) (hkey : m.k = none) :
    cmdHashupd E m = raise .nokey opHashupd m := by
  simp [cmdHashupd, herr, hkey]

theorem cmdHashupd_of_no_acc (herr : m.err = false) (hkey : m.k = some key) (haccv : m.accv = false) :
    cmdHashupd E m = raise .noacc opHashupd m := by
  simp [cmdHashupd, herr, hkey, haccv]

theorem cmdHashupd_of_acc (herr : m.err = false) (hkey : m.k = some key) (haccv : m.accv = true) :
    cmdHashupd E m = { m with acc := E key (blockXor m.acc m.din) } := by
  simp [cmdHashupd, herr, hkey, haccv, encryptBlock]

end

/-! ### Fields without a writer among a run's events (R15, R17, R30) -/

/-- A field that only the commands of a list write keeps its value over a run that performs none of them. -/
theorem run_keeps_of_writers {α : Type} {f : CoreState → α} {cs : List (Option Byte)}
    (hwriters : ∀ (i : Instr) (s t : State), exec i s = .next t → f t.core ≠ f s.core → commandByte i ∈ cs)
    {n : Nat} {s t : State} (hev : ∀ e ∈ s.pending.take n, e.command ∉ cs) (hrun : run n s = .next t) :
    f t.core = f s.core := by
  refine run_keeps (p := fun e => e.command ∉ cs) (fun s t hfirst hstep => ?_) hev hrun
  cases hp : s.pending with
  | nil => rw [step_idle hp] at hstep; cases hstep; rfl
  | cons e rest =>
    obtain ⟨i, hcmd, hexec⟩ := exec_of_step hp hstep
    by_contra hne
    exact hfirst e (by simp [hp]) (hcmd ▸ hwriters i _ _ hexec hne)

theorem acc_writers (i : Instr) (s t : State) (hexec : exec i s = .next t) :
    t.core.acc ≠ s.core.acc → commandByte i ∈ [some opHashinit, some opHashupd, some opSreset] := by
  obtain ⟨-, -, -, -, -, -, hacc, -⟩ := onlyListedWritersChange i s t hexec
  exact hacc

theorem k_writers (i : Instr) (s t : State) (hexec : exec i s = .next t) :
    t.core.k ≠ s.core.k → commandByte i ∈ [some opSetkey, some opSreset] := by
  obtain ⟨-, -, -, -, -, -, -, hk, -⟩ := onlyListedWritersChange i s t hexec
  exact hk

theorem accv_writers (i : Instr) (s t : State) (hexec : exec i s = .next t) :
    t.core.accv ≠ s.core.accv → commandByte i ∈ [some opSetkey, some opHashinit, some opSreset] := by
  obtain ⟨-, -, -, -, -, -, -, -, -, haccv, -⟩ := onlyListedWritersChange i s t hexec
  exact haccv

/-! ### A run between two HASHINITs (R79) -/

section
variable {n : Nat} {s t : State}

/-- The events of a run that continues one accumulation. -/
def KeepsHash (es : List HostEvent) : Prop :=
  ∀ e ∈ es, e.command ∉ [some opSetkey, some opHashinit, some opSreset]

theorem accv_of_run (hev : KeepsHash (s.pending.take n)) (hrun : run n s = .next t) : t.core.accv = s.core.accv :=
  run_keeps_of_writers accv_writers hev hrun

theorem k_of_run (hev : KeepsHash (s.pending.take n)) (hrun : run n s = .next t) : t.core.k = s.core.k := by
  refine run_keeps_of_writers k_writers (fun e he hk => hev e he ?_) hrun
  simp only [List.mem_cons] at hk ⊢
  tauto

theorem acc_of_run (hev : KeepsHash (s.pending.take n))
    (hquiet : ∀ e ∈ s.pending.take n, e.command ≠ some opHashupd) (hrun : run n s = .next t) :
    t.core.acc = s.core.acc := by
  refine run_keeps_of_writers acc_writers (fun e he hacc => hev e he ?_) hrun
  have hupd := hquiet e he
  simp only [List.mem_cons] at hacc ⊢
  tauto

/-- A step that performs HASHUPD with a key and a started accumulator absorbs DIN (R77). -/
theorem core_of_hashupd_step {e : HostEvent} {rest : List HostEvent} {key : Block} (hp : s.pending = e :: rest)
    (hupd : e.command = some opHashupd) (herr : s.core.err = false) (hkey : s.core.k = some key)
    (haccv : s.core.accv = true) (hstep : step s = .next t) :
    t.core = { s.core with acc := Config.cipher key (blockXor s.core.acc s.core.din) } := by
  obtain ⟨i, hcmd, hexec⟩ := exec_of_step hp hstep
  rw [exec_of_commandByte _ (hcmd ▸ hupd)] at hexec
  cases hexec
  rw [State.onCore_core, runCommand_hashupd]
  exact cmdHashupd_of_acc _ herr hkey haccv

end

/-! ### The settled statements -/

/-- Settles O55: K and ACCV have no writer on the way, so the HASHUPD at the end meets the key and a started
accumulator. -/
theorem interleavedHashChains : Obligations.InterleavedHashChains := by
  intro n s t key hkey haccv hev hunlocked hrun
  refine ⟨(accv_of_run hev hrun).trans haccv, (k_of_run hev hrun).trans hkey,
    fun hquiet => acc_of_run hev hquiet hrun, ?_⟩
  rintro m e rfl he hupd
  obtain ⟨u, hu, hstep⟩ := run_last m s t hrun
  have hbefore : KeepsHash (s.pending.take m) := by
    rw [take_succ_of_run hu, List.forall_mem_append] at hev
    exact hev.left
  have hp : u.pending = e :: s.pending.drop (m + 1) := by
    obtain ⟨hm, rfl⟩ := List.getElem?_eq_some_iff.mp he
    rw [pending_of_run hu, List.drop_eq_getElem_cons hm]
  have hcore := core_of_hashupd_step hp hupd (hunlocked m u m.le_succ hu) ((k_of_run hbefore hu).trans hkey)
    ((accv_of_run hbefore hu).trans haccv) hstep
  exact ⟨u, hu, by rw [hcore]⟩

/-- Settles O17: the lock first, then the key. -/
theorem hashinitResult : Obligations.HashinitResult := by
  refine ⟨decode_encode_of_opcode (i := .hashinit) rfl, fun s => ⟨fun herr => ?locked, fun herr hkey => ?nokey,
    fun key herr hkey => ?value⟩⟩
  case locked => exact exec_hashinit (cmdHashinit_of_locked _ herr)
  case nokey => exact exec_hashinit (cmdHashinit_of_no_key _ herr hkey)
  case value => exact exec_hashinit (cmdHashinit_of_key _ herr hkey)

/-- Settles O18: the lock, the key, the accumulator, in that order. -/
theorem hashupdResult : Obligations.HashupdResult := by
  refine ⟨decode_encode_of_opcode (i := .hashupd) rfl, fun s => ⟨fun herr => ?locked, fun herr hkey => ?nokey,
    fun key herr hkey => ⟨fun haccv => ?noacc, fun haccv => ?value⟩⟩⟩
  case locked => exact exec_hashupd (cmdHashupd_of_locked _ herr)
  case nokey => exact exec_hashupd (cmdHashupd_of_no_key _ herr hkey)
  case noacc => exact exec_hashupd (cmdHashupd_of_no_acc _ herr hkey haccv)
  case value => exact exec_hashupd (cmdHashupd_of_acc _ herr hkey haccv)

end Sys2Proof.Proofs
end

section
/-! PROOFS. The statements about the offset mask (spec/43_offset_mask.md): OFFSET by the branch of its checks, and the
mask as an exclusive OR with one pad, whose laws are those of the block operator. -/

namespace Sys2Proof.Proofs

open Sys2Proof Sys2Proof.Machine

/-! ### The mask (R81) -/

@[simp] theorem blockXor_zeroBlock (a : Block) : blockXor a zeroBlock = a := by
  ext j hj : 1
  rw [blockXor_getElem _ _ _ hj, Vector.getElem_replicate]
  exact BitVec.xor_zero

section
variable (E : Cipher) (k nonce v : Block)

theorem offs_getElem (j : Fin 16) : (offs E k nonce v)[j] = (E k (ctr0 nonce))[j] ^^^ v[j] :=
  blockXor_getElem _ _ j.val j.isLt

/-- Masking twice under one nonce meets the same pad twice (R64 (b)). -/
@[simp] theorem offs_offs : offs E k nonce (offs E k nonce v) = v := blockXor_cancel _ v

@[simp] theorem offs_zeroBlock : offs E k nonce zeroBlock = E k (ctr0 nonce) := blockXor_zeroBlock _

end

/-! ### OFFSET (R82) -/

theorem exec_offset {s : State} {m : CoreState} (h : cmdMask Config.cipher s.core = m) :
    exec .offset s = .next { s with core := m } := by
  rw [exec_of_commandByte s rfl, State.onCore, runCommand_offset, h]

section
variable (E : Cipher) {m : CoreState} {key : Block}

theorem cmdMask_of_locked (herr : m.err = true) : cmdMask E m = m := if_pos herr

theorem cmdMask_of_no_key (herr : m.err = false) (hkey : m.k = none) : cmdMask E m = raise .nokey opOffset m := by
  simp [cmdMask, herr, hkey]

theorem cmdMask_of_key (herr : m.err = false) (hkey : m.k = some key) :
    cmdMask E m = { m with dout := offs E key m.nonce m.din } := by
  simp [cmdMask, herr, hkey, encryptBlock, offs]

end

/-! ### The settled statements -/

/-- Settles O19: the lock first, then the key. -/
theorem offsetResult : Obligations.OffsetResult := by
  refine ⟨decode_encode_of_opcode (i := .offset) rfl, fun s => ⟨fun herr => ?locked, fun herr hkey => ?nokey,
    fun key herr hkey => ?value⟩⟩
  case locked => exact exec_offset (cmdMask_of_locked _ herr)
  case nokey => exact exec_offset (cmdMask_of_no_key _ herr hkey)
  case value => exact exec_offset (cmdMask_of_key _ herr hkey)

/-- Settles O49: the starting counter is the counter block at index 0, and the mask is one exclusive OR. -/
theorem offsetMaskIsSelfInverse : Obligations.OffsetMaskIsSelfInverse := fun E k nonce v =>
  ⟨offs_getElem E k nonce v, rfl, offs_offs E k nonce v, offs_zeroBlock E k nonce⟩

end Sys2Proof.Proofs
end

section
/-! PROOFS. The statements about the window's transactions and the control commands (spec/44_key_and_control.md). A
transaction is settled by the location of its offset, a command by its byte. -/

namespace Sys2Proof.Proofs

open Sys2Proof Sys2Proof.Machine

/-! ### Offsets and their locations (R33) -/

theorem locate_of_toNat {off : Offset} {r : Reg16} {i : Fin 16} (h : off.toNat = r.first + i.val) :
    locate off = .byte r i := by
  have hoff : off = offOf r i := BitVec.eq_of_toNat_eq (h.trans (offOf_toNat r i).symm)
  rw [hoff, locate_offOf]

/-- KEY is the register at the window's start. -/
theorem locate_key {off : Offset} {i : Fin 16} (h : off.toNat = i.val) : locate off = .byte .key i :=
  locate_of_toNat (h.trans (Nat.zero_add _).symm)

theorem locate_reserved (off : Offset) : 0x66 ≤ off.toNat → locate off = .reserved := by
  revert off; decide

/-! ### Reads (R84) -/

/-- The assembler's arithmetic for a read, `256*off`, loses no bit (R53). -/
theorem packWord_read_eq_mul (off : Offset) : packWord false off 0x00 = 256#16 * off.setWidth 16 := by
  have hoff := off.isLt
  apply BitVec.eq_of_toNat_eq
  rw [packWord_toNat]
  simp only [BitVec.toNat_mul, BitVec.toNat_setWidth, BitVec.toNat_ofNat, BitVec.ofNat_eq_ofNat, Bool.toNat_false]
  omega

theorem memRead_of_locate {off : Offset} {l : Loc} (m : CoreState) (h : locate off = l) :
    memRead off m = readLoc m l := congrArg (readLoc m) h

/-- The four flags have a bit each, so their weights add up without a carry (R18). -/
theorem status_toNat (m : CoreState) :
    m.status.toNat = m.k.isSome.toNat + 2 * m.ctrv.toNat + 4 * m.accv.toNat + 128 * m.err.toNat := by
  have hbits : ∀ k c a e : Bool, (bit k + 2 * bit c + 4 * bit a + 128 * bit e).toNat =
      k.toNat + 2 * c.toNat + 4 * a.toNat + 128 * e.toNat := by decide
  exact hbits m.k.isSome m.ctrv m.accv m.err

/-- Of the sixteen settings of the flags, the four with ACCV and without KEYV are shut out (R18). -/
theorem flags_mem_of_accv_imp_keyv : ∀ keyv ctrv accv err : Bool, (accv = true → keyv = true) →
    keyv.toNat + 2 * ctrv.toNat + 4 * accv.toNat + 128 * err.toNat ∈
      [0x00, 0x01, 0x02, 0x03, 0x05, 0x07, 0x80, 0x81, 0x82, 0x83, 0x85, 0x87] := by decide

/-! ### Writes (R83) -/

theorem exec_wr (off : Offset) (d : Byte) (s : State) :
    exec (.wr off d) s = .next { s with core := memWrite Config.cipher off d s.core } := rfl

theorem memWrite_of_locate (E : Cipher) {off : Offset} {l : Loc} (d : Byte) (m : CoreState) (h : locate off = l)
    (hl : l ≠ .cmd) : memWrite E off d m = storeLoc d m l := by
  subst h
  exact memWrite_of_ne_cmd E off d m fun e => hl ((locate_eq_cmd off).mpr e)

/-- DOUT, CTR, ACC, STATUS, ERRCODE, ERRCMD and the reserved offsets ignore a write (R34, R35). -/
theorem memWrite_ignored (E : Cipher) {off : Offset} (d : Byte) (m : CoreState)
    (h : 0x30 ≤ off.toNat ∧ off.toNat < 0x60 ∨ 0x63 ≤ off.toNat) : memWrite E off d m = m := by
  cases hl : locate off with
  | byte r i =>
    rw [memWrite_of_locate E d m hl Loc.noConfusion]
    have hoff := toNat_of_locate_byte hl
    cases r with
    | dout | ctr | acc => rfl
    | key | nonce | din => simp only [Reg16.first] at hoff; omega
  | lenHi => cases eq_of_locate_lenHi hl; exact absurd h (by decide)
  | lenLo => cases eq_of_locate_lenLo hl; exact absurd h (by decide)
  | cmd => cases (locate_eq_cmd off).mp hl; exact absurd h (by decide)
  | status | errcode | errcmd | reserved => exact memWrite_of_locate E d m hl Loc.noConfusion

/-! ### Commands (R85, R88) -/

/-- Two instructions that execute one command byte are one command. -/
theorem exec_eq_of_commandByte {i j : Instr} {b : Byte} (s : State) (hi : commandByte i = some b)
    (hj : commandByte j = some b) : exec i s = exec j s :=
  (exec_of_commandByte s hi).trans (exec_of_commandByte s hj).symm

/-- A locked CORE executes SRESET and CLRERR alone (R124). -/
theorem exec_of_locked {i : Instr} {b : Byte} {s : State} (hi : commandByte i = some b) (herr : s.core.err = true)
    (h8 : b ≠ opSreset) (h7 : b ≠ opClrerr) : exec i s = .next s := by
  rw [exec_of_commandByte s hi, State.onCore, runCommand, if_neg h8, if_neg h7, if_pos herr]

theorem cmdSetkey_of_unlocked {m : CoreState} (herr : m.err = false) :
    cmdSetkey m = { m with k := some m.key, key := zeroBlock, ctrv := false, accv := false } := by
  simp [cmdSetkey, herr, setKey]

/-! ### The settled statements -/

/-- Settles O10: the location of the offset, range by range, says which byte is read. -/
theorem readReturnsWindowByte : Obligations.ReadReturnsWindowByte := by
  intro s off
  refine ⟨?word, memRead off s.core, exec_rd off s, fun i => ⟨fun h => ?key, fun h => ?nonce, fun h => ?din,
    fun h => ?dout, fun h => ?ctr, fun h => ?acc⟩, ?lenHi, ?lenLo, ?cmd, ?status, ?errcode, ?errcmd, fun h => ?reserved⟩
  case word => rw [← packWord_read_eq_mul, decode_packWord_read]
  case key => exact memRead_of_locate s.core (locate_key h)
  case nonce => exact memRead_of_locate s.core (locate_of_toNat (r := .nonce) h)
  case din => exact memRead_of_locate s.core (locate_of_toNat (r := .din) h)
  case dout => exact memRead_of_locate s.core (locate_of_toNat (r := .dout) h)
  case ctr => exact memRead_of_locate s.core (locate_of_toNat (r := .ctr) h)
  case acc => exact memRead_of_locate s.core (locate_of_toNat (r := .acc) h)
  case lenHi => rintro rfl; exact hi8_toNat s.core.len
  case lenLo => rintro rfl; exact lo8_toNat s.core.len
  case cmd => rintro rfl; exact memRead_of_locate s.core locate_cmd
  case status => rintro rfl; exact status_toNat s.core
  case errcode => rintro rfl; exact memRead_of_locate s.core locate_errcode
  case errcmd => rintro rfl; exact memRead_of_locate s.core locate_errcmd
  case reserved => exact memRead_of_locate s.core (locate_reserved off h)

/-- Settles O11: the location of the offset says which byte is stored, or that none is. -/
theorem writeStoresWindowByte : Obligations.WriteStoresWindowByte := by
  intro s off d
  have hbyte {r : Reg16} {i : Fin 16} (h : locate off = .byte r i) :=
    memWrite_of_locate Config.cipher d s.core h Loc.noConfusion
  refine ⟨_, exec_wr off d s, fun i => ⟨fun h => ?key, fun h => ?nonce, fun h => ?din⟩, ?lenHi, ?lenLo, ?cmd,
    fun h => ?ignored⟩
  case key => rw [hbyte (locate_key h), storeLoc]
  case nonce => rw [hbyte (locate_of_toNat (r := .nonce) h), storeLoc]
  case din => rw [hbyte (locate_of_toNat (r := .din) h), storeLoc]
  case lenHi => rintro rfl; exact ⟨_, rfl, by rw [be16_toNat, lo8_toNat]⟩
  case lenLo => rintro rfl; exact ⟨_, rfl, by rw [be16_toNat, hi8_toNat]⟩
  case cmd => rintro rfl; rfl
  case ignored => rw [memWrite_ignored Config.cipher d s.core h]

/-- Settles O22: a byte that names a command runs as that command's own term does; the lock and ILLCMD are the other
two ways the dispatch can end. -/
theorem commandDispatch : Obligations.CommandDispatch := by
  intro s b
  have hcmd : commandByte (.wr 0x62 b) = some b := rfl
  refine ⟨?sreset, ?clrerr, fun h8 h7 herr => ?locked, fun hill herr => ?illegal, fun i _ _ _ hop => ?command⟩
  case sreset => rintro rfl; exact exec_eq_of_commandByte s hcmd rfl
  case clrerr => rintro rfl; exact exec_eq_of_commandByte s hcmd rfl
  case locked => exact exec_of_locked hcmd herr h8 h7
  case illegal => rw [exec_of_commandByte s hcmd, State.onCore, runCommand_illegal _ _ hill, herr]; rfl
  case command => exact exec_eq_of_commandByte s hcmd (commandByte_of_opcode hop)

/-- Settles O44: of the invariant, STATUS needs only that ACCV has KEYV. -/
theorem statusValues : Obligations.StatusValues := by
  intro m hinv
  have hread : memRead 0x63 m = m.status := memRead_of_locate m locate_status
  rw [hread, status_toNat]
  exact flags_mem_of_accv_imp_keyv _ _ _ _ hinv.accvKeyv

/-- Settles O14: whether the CORE is locked is all that SETKEY looks at. -/
theorem setkeyResult : Obligations.SetkeyResult := by
  refine ⟨decode_encode_of_opcode (i := .setkey) rfl, fun s => ⟨fun herr => ?unlocked, fun herr => ?locked⟩⟩
  case unlocked => rw [exec_of_commandByte s rfl, State.onCore, runCommand_setkey, cmdSetkey_of_unlocked herr]
  case locked => exact exec_of_locked rfl herr (by decide) (by decide)

/-- Settles O20: no check comes before the latch is cleared. -/
theorem clrerrResult : Obligations.ClrerrResult := by
  refine ⟨decode_encode_of_opcode (i := .clrerr) rfl, fun s => ?_⟩
  rw [exec_of_commandByte s rfl, State.onCore, runCommand_clrerr, cmdClrerr, clearLatch]

/-- Settles O21: no check comes before the reset. -/
theorem sresetResult : Obligations.SresetResult := by
  refine ⟨decode_encode_of_opcode (i := .sreset) rfl, fun s => ?_⟩
  rw [exec_of_commandByte s rfl, State.onCore, runCommand_sreset, cmdSreset, resetCore_eq, CoreState.reset]

end Sys2Proof.Proofs
end

section
/-! PROOFS. The statement about the host software (spec/45_host_sequences.md): the verifier undoes the two layers of
a record one at a time, the keystream pad and then the mask, each an exclusive OR that meets its own pad again. -/

namespace Sys2Proof.Proofs

open Sys2Proof Sys2Proof.Machine

section
variable (E : Cipher) (k : Block)

/-- One block of keystream meets the same pad twice under one nonce (R70). -/
@[simp] theorem ksOne_ksOne (nonce v : Block) : ksOne E k nonce (ksOne E k nonce v) = v := blockXor_cancel _ v

/-- A record is accepted when its challenge field decrypts to `p` and its hash field unmasks to the hash of `p`
(R105). -/
theorem verify_of_fields {r : NextChallenge} {p : Block} (hchallenge : ksOne E k r.nonce r.encChallenge = p)
    (hhash : offs E k r.nonce r.encHash = hashOne E k r.nonce p) : verify E k r = (true, p) := by
  rw [verify, hchallenge, hhash, beq_self_eq_true]

/-- Of any generated record the verifier recovers the challenge value and its hash (R109). -/
theorem verify_generateB (nonce : Block) (v : Option Block) :
    verify E k (generateB E k nonce v) = (true, challengeValue v) :=
  verify_of_fields E k (ksOne_ksOne E k nonce _) (offs_offs E k nonce _)

end

/-- Settles O50: an absent challenge value stands for the zero block on both sides (R107). -/
theorem verifyAcceptsGenerated : Obligations.VerifyAcceptsGenerated := fun E k nonce v =>
  verify_generateB E k nonce v

end Sys2Proof.Proofs
end

section
/-! PROOFS. The statements about the error latch (spec/60_exceptions.md). Three facts carry them: a cause that arises
latches and nothing else does, a locked CORE keeps all but the registers the host writes, and an event that clears the
latch is one that performs CLRERR or SRESET. -/

namespace Sys2Proof.Proofs

open Sys2Proof Sys2Proof.Machine

/-! ### A cause and its latch (R116, R126) -/

theorem cause_code_injective : Function.Injective Cause.code := by
  intro e e' h
  cases e <;> cases e' <;> cases h <;> rfl

/-- Each cause latches where it arises (R118 to R122). -/
theorem runCommand_of_causeArises (E : Cipher) {m : CoreState} {b : Byte} {e : Cause} (herr : m.err = false)
    (h : causeArises m b e) : runCommand E b m = raise e b m := by
  cases e with
  | illcmd => rw [runCommand_illegal E m h, herr]; rfl
  | nokey =>
    obtain ⟨rfl | rfl | rfl | rfl, hkey⟩ := h
    · rw [runCommand_ctrnext, cmdCtrnext_of_no_key E herr hkey]
    · rw [runCommand_hashinit, cmdHashinit_of_no_key E herr hkey]
    · rw [runCommand_hashupd, cmdHashupd_of_no_key E herr hkey]
    · rw [runCommand_offset, cmdMask_of_no_key E herr hkey]
  | noctr =>
    obtain ⟨rfl, hkey, hctrv⟩ := h
    obtain ⟨key, hkey⟩ := Option.ne_none_iff_exists'.mp hkey
    rw [runCommand_ctrnext, cmdCtrnext_of_no_ctr E herr hkey hctrv]
  | noacc =>
    obtain ⟨rfl, hkey, haccv⟩ := h
    obtain ⟨key, hkey⟩ := Option.ne_none_iff_exists'.mp hkey
    rw [runCommand_hashupd, cmdHashupd_of_no_acc E herr hkey haccv]
  | ctrwrap =>
    obtain ⟨rfl, hkey, hctrv, hinc⟩ := h
    obtain ⟨key, hkey⟩ := Option.ne_none_iff_exists'.mp hkey
    rw [runCommand_ctrnext, cmdCtrnext_of_wrap E herr hkey hctrv hinc]

theorem exec_of_causeArises {i : Instr} {b : Byte} {e : Cause} {s : State} (hi : commandByte i = some b)
    (herr : s.core.err = false) (h : causeArises s.core b e) :
    exec i s = .next { s with core := { s.core with err := true, errcode := e.code, errcmd := b } } := by
  rw [exec_of_commandByte s hi, State.onCore, runCommand_of_causeArises _ herr h, raise]

/-- A command that leaves an unlocked CORE locked met a cause, and latching it is all it did. -/
theorem exists_cause_of_latched {E : Cipher} {m : CoreState} {b : Byte} (herr : m.err = false)
    (hlocked : (runCommand E b m).err = true) : ∃ e, causeArises m b e ∧ runCommand E b m = raise e b m := by
  have heff := runCommand_effect E b m
  generalize runCommand E b m = r at heff hlocked ⊢
  cases heff with
  | latched _ e _ hcause => exact ⟨e, hcause, rfl⟩
  | sreset | clrerr => cases hlocked
  | _ => cases herr.symm.trans hlocked

/-! ### Stores and the latch (R124, R131) -/

theorem storeLoc_keeps_latch (d : Byte) (m : CoreState) (l : Loc) :
    (storeLoc d m l).err = m.err ∧ (storeLoc d m l).errcode = m.errcode ∧ (storeLoc d m l).errcmd = m.errcmd := by
  obtain ⟨key, nonce, din, len, hst⟩ := storeLoc_frame d m l
  rw [hst]
  exact ⟨rfl, rfl, rfl⟩

/-- A store does not look at ERR. -/
theorem storeLoc_with_err (d : Byte) (m : CoreState) (l : Loc) (b : Bool) :
    storeLoc d { m with err := b } l = { storeLoc d m l with err := b } := by
  cases l with
  | byte r i => cases r <;> rfl
  | _ => rfl

/-- STATUS is the only location that shows ERR (R18). -/
theorem readLoc_with_err (m : CoreState) {l : Loc} (b : Bool) (h : l ≠ .status) :
    readLoc { m with err := b } l = readLoc m l := by
  cases l with
  | byte r i => cases r <;> rfl
  | status => exact absurd rfl h
  | _ => rfl

theorem eq_of_locate_status {off : Offset} (h : locate off = .status) : off = 0x63 :=
  locate_injective_of_ne_reserved (by decide) (h.trans locate_status.symm)

theorem with_err_of_err {m : CoreState} {b : Bool} (h : m.err = b) : { m with err := b } = m := by
  cases h
  rfl

/-! ### A latched error describes the state (R119 to R122) -/

theorem latchExplained_of_unlocked {m : CoreState} (herr : m.err = false) : latchExplained m :=
  fun hlocked => Bool.noConfusion (herr.symm.trans hlocked)

/-- What made the cause arise is what the latched code says of the state, which latching does not change. -/
theorem latchExplained_raise {m : CoreState} {b : Byte} {e : Cause} (h : causeArises m b e) :
    latchExplained (raise e b m) := by
  refine fun _ => ⟨fun hcode => ?nokey, fun hcode => ?noctr, fun hcode => ?noacc, fun hcode => ?ctrwrap⟩ <;>
    cases cause_code_injective hcode
  case nokey =>
    obtain ⟨-, hkey⟩ := h
    exact hkey
  case noctr =>
    obtain ⟨-, hkey, hctrv⟩ := h
    exact ⟨hkey, hctrv⟩
  case noacc =>
    obtain ⟨-, hkey, haccv⟩ := h
    exact ⟨hkey, haccv⟩
  case ctrwrap =>
    obtain ⟨-, hkey, hctrv, hinc⟩ := h
    exact ⟨hkey, hctrv, (inc_eq_none_iff m.ctr).mp hinc⟩

theorem storeLoc_keeps_latchExplained (d : Byte) (m : CoreState) (l : Loc) (h : latchExplained m) :
    latchExplained (storeLoc d m l) := by
  obtain ⟨key, nonce, din, len, hst⟩ := storeLoc_frame d m l
  rw [hst]
  exact h

/-- A command byte is ignored, latches the cause it met, or ends unlocked. -/
theorem runCommand_keeps_latchExplained (E : Cipher) (b : Byte) (m : CoreState) (h : latchExplained m) :
    latchExplained (runCommand E b m) := by
  have heff := runCommand_effect E b m
  generalize runCommand E b m = r at heff ⊢
  cases heff with
  | ignored => exact h
  | latched _ e _ hcause => exact latchExplained_raise hcause
  | sreset | clrerr => exact latchExplained_of_unlocked rfl
  | setkey herr | ctrinit herr | ctrnext _ _ herr | hashinit _ herr | hashupd _ herr | offset _ herr =>
    exact latchExplained_of_unlocked herr

/-! ### Events that clear the latch (R17) -/

theorem decode_wellFormed (w : T16) : (decode w).wellFormed = true := by
  obtain ⟨hwf, -⟩ := everyWordDecodesCanonically w
  exact hwf

theorem wellFormed_of_instr {e : HostEvent} {i : Instr} (h : e.instr = some i) : i.wellFormed = true := by
  cases e with
  | word w => cases h; exact decode_wellFormed w
  | access addr bytes kind =>
    cases hw : accessWord addr bytes kind with
    | ok w => cases (instr_of_accessWord hw).symm.trans h; exact decode_wellFormed w
    | error r => simp [HostEvent.instr, hw] at h
  | reset => cases h; rfl

/-- A well-formed term executes its own opcode, or is the write of a byte of no command. -/
theorem opcodeOf_of_commandByte {i : Instr} {b : Byte} (hwf : i.wellFormed = true) (hb : commandByte i = some b) :
    opcodeOf i = some b ∨ illegalByte b := by
  cases i with
  | wr off d =>
    obtain ⟨hoff, rfl⟩ : off = cmdOffset ∧ d = b := by simpa [commandByte] using hb
    exact .inr ((wellFormed_wr_iff off d).mp hwf hoff)
  | _ => exact .inl hb

/-- An event that executes the opcode of a command performs that command's own term. -/
theorem instr_of_command {e : HostEvent} {i : Instr} {b : Byte} (hop : opcodeOf i = some b)
    (hcmd : e.command = some b) : e.instr = some i := by
  obtain ⟨j, hj, hb⟩ := Option.bind_eq_some_iff.mp hcmd
  have hi := decodeCommand_of_opcode hop
  obtain hop' | hill := opcodeOf_of_commandByte (wellFormed_of_instr hj) hb
  · cases hi.symm.trans (decodeCommand_of_opcode hop')
    exact hj
  · cases hi.symm.trans (decodeCommand_illegal hill)

/-- Reset counts as SRESET, and no `wr` term carries either byte: the decoder gives the command's own term. -/
theorem ne_of_not_mayClear {e : HostEvent} {b : Byte} (h : e.mayClear = false) (hcmd : e.command = some b) :
    b ≠ opSreset ∧ b ≠ opClrerr := by
  have hkeeps {i : Instr} (hi : e.instr = some i) : clearsLatch i = false := by
    rwa [HostEvent.mayClear, hi] at h
  constructor <;> rintro rfl
  · cases hkeeps (instr_of_command (i := .sreset) rfl hcmd)
  · cases hkeeps (instr_of_command (i := .clrerr) rfl hcmd)

/-! ### While locked (R116, R124) -/

/-- `m'` is `m` but for the registers the host writes: KEY, NONCE, DIN and LEN. -/
def SameButStores (m m' : CoreState) : Prop :=
  ∃ key nonce din len, m' = { m with key := key, nonce := nonce, din := din, len := len }

theorem SameButStores.refl (m : CoreState) : SameButStores m m := ⟨_, _, _, _, rfl⟩

theorem SameButStores.trans {m m' m'' : CoreState} (h : SameButStores m m') (h' : SameButStores m' m'') :
    SameButStores m m'' := by
  obtain ⟨_, _, _, _, rfl⟩ := h
  obtain ⟨_, _, _, _, rfl⟩ := h'
  exact ⟨_, _, _, _, rfl⟩

theorem SameButStores.err_eq {m m' : CoreState} (h : SameButStores m m') : m'.err = m.err := by
  obtain ⟨_, _, _, _, rfl⟩ := h
  rfl

theorem sameButStores_of_locked_step {s t : State} (herr : s.core.err = true)
    (hev : ∀ e ∈ s.pending.take 1, HostEvent.mayClear e = false) (hstep : step s = .next t) :
    SameButStores s.core t.core := by
  cases hp : s.pending with
  | nil => rw [step_idle hp] at hstep; cases hstep; exact .refl _
  | cons e rest =>
    have hkeep := hev e (by simp [hp])
    obtain ⟨i, hcmd, hexec⟩ := exec_of_step hp hstep
    obtain ⟨off, rfl⟩ | ⟨off, d, hoff, rfl⟩ | ⟨b, hb⟩ := instr_cases i
    · rw [exec_rd] at hexec; cases hexec; exact .refl _
    · rw [exec_wr_of_ne_cmd d _ hoff] at hexec; cases hexec; exact storeLoc_frame d s.core _
    · obtain ⟨h8, h7⟩ := ne_of_not_mayClear hkeep (hcmd.trans hb)
      rw [exec_of_locked (s := { s with pending := rest }) hb herr h8 h7] at hexec; cases hexec; exact .refl _

/-- The lock holds from step to step, by induction on the run. -/
theorem sameButStores_of_locked_run {n : Nat} {s t : State} (herr : s.core.err = true)
    (hev : ∀ e ∈ s.pending.take n, HostEvent.mayClear e = false) (hrun : run n s = .next t) :
    SameButStores s.core t.core := by
  induction n generalizing t with
  | zero => cases hrun; exact .refl _
  | succ n ih =>
    obtain ⟨u, hu, hstep⟩ := run_last n s t hrun
    rw [take_succ_of_run hu, List.forall_mem_append] at hev
    obtain ⟨hbefore, hlast⟩ := hev
    have hsu := ih hbefore hu
    exact hsu.trans (sameButStores_of_locked_step (hsu.err_eq.trans herr) hlast hstep)

/-- A run passes through a state after each number of steps. -/
theorem exists_run_of_run_add {m n : Nat} {s t : State} (h : run (m + n) s = .next t) :
    ∃ u, run m s = .next u ∧ run n u = .next t := by
  induction n generalizing t with
  | zero => exact ⟨t, h, rfl⟩
  | succ n ih =>
    obtain ⟨v, hv, hstep⟩ := run_last (m + n) s t h
    obtain ⟨u, hu, huv⟩ := ih hv
    exact ⟨u, hu, by rw [run_add n 1 u v huv, run_succ_of_next 0 v t hstep, run_zero]⟩

/-! ### The settled statements -/

/-- Settles O46: stores leave alone what a code describes, and every effect of a command byte keeps the description. -/
theorem everyStepKeepsLatchExplained : Obligations.EveryStepKeepsLatchExplained := by
  intro s t hexpl hstep
  exact step_keeps storeLoc_keeps_latchExplained (runCommand_keeps_latchExplained Config.cipher) hexpl hstep

/-- Settles O28: only a command byte can set ERR, and it does so by latching a cause. -/
theorem errorsArePrecise : Obligations.ErrorsArePrecise := by
  intro i s t hexec herr hlocked
  obtain ⟨off, rfl⟩ | ⟨off, d, hoff, rfl⟩ | ⟨b, hb⟩ := instr_cases i
  · rw [exec_rd] at hexec
    cases hexec
    cases herr.symm.trans hlocked
  · rw [exec_wr_of_ne_cmd d s hoff] at hexec
    cases hexec
    obtain ⟨hkeeps, -⟩ := storeLoc_keeps_latch d s.core (locate off)
    cases herr.symm.trans (hkeeps.symm.trans hlocked)
  · rw [exec_of_commandByte s hb] at hexec
    cases hexec
    obtain ⟨e, hcause, hraise⟩ := exists_cause_of_latched herr hlocked
    exact ⟨e.code, b, hb, legalLatch_of_causeArises hcause, by rw [State.onCore, hraise, raise]⟩

/-- Settles O29: the dispatch ends at the lock, and neither a store nor a read away from STATUS looks at ERR. -/
theorem lockedIgnoresCommands : Obligations.LockedIgnoresCommands := by
  refine fun s herr => ⟨fun i b hb h7 h8 => exec_of_locked hb herr h8 h7, fun off d u hoff hexec => ?_,
    fun off hoff => (readLoc_with_err s.core false (mt eq_of_locate_status hoff)).symm⟩
  rw [exec_wr_of_ne_cmd d _ hoff] at hexec
  cases hexec
  have hcore : { storeLoc d { s.core with err := false } (locate off) with err := true } =
      storeLoc d s.core (locate off) := by
    rw [← storeLoc_with_err]
    exact congrArg (storeLoc d · (locate off)) (with_err_of_err herr)
  rw [exec_wr_of_ne_cmd d s hoff, State.onCore_core, hcore, State.onCore, State.onCore]

/-- Settles O30: the fields the host writes are none of those kept. -/
theorem firstErrorKept : Obligations.FirstErrorKept := by
  intro n s t herr hev hrun
  obtain ⟨key, nonce, din, len, hcore⟩ := sameButStores_of_locked_run herr hev hrun
  rw [hcore]
  exact ⟨herr, rfl, rfl, rfl, rfl, rfl, rfl, rfl, rfl⟩

/-- Settles O31: from a state on the way that was locked the lock would have held to the end. -/
theorem noErrorAtEndMeansNoneThroughout : Obligations.NoErrorAtEndMeansNoneThroughout := by
  intro n s t hev hrun hend m hm
  obtain ⟨k, rfl⟩ := Nat.exists_eq_add_of_le hm
  obtain ⟨u, hu, hrest⟩ := exists_run_of_run_add hrun
  rw [List.take_add, ← pending_of_run hu, List.forall_mem_append] at hev
  obtain ⟨-, hafter⟩ := hev
  refine ⟨u, hu, Bool.eq_false_iff.mpr fun herr => ?_⟩
  have hlocked := (sameButStores_of_locked_run herr hafter hrest).err_eq.trans herr
  cases hend.symm.trans hlocked

/-- Settles O13. -/
theorem registerAccessNeverErrs : Obligations.RegisterAccessNeverErrs := fun s off d =>
  ⟨⟨_, exec_rd off s, rfl⟩, fun hoff => ⟨_, exec_wr_of_ne_cmd d s hoff, storeLoc_keeps_latch d s.core (locate off)⟩⟩

/-- Settles O23. -/
theorem illegalCommandLatches : Obligations.IllegalCommandLatches := fun _ _ herr hill =>
  exec_of_causeArises (e := .illcmd) rfl herr hill

/-- Settles O24: NOKEY arises under the opcode of each of the four. -/
theorem noKeyLatches : Obligations.NoKeyLatches := by
  intro s herr hkey i b hib
  obtain ⟨hi, hb⟩ : commandByte i = some b ∧ (b = opCtrnext ∨ b = opHashinit ∨ b = opHashupd ∨ b = opOffset) := by
    obtain ⟨rfl, rfl⟩ | ⟨rfl, rfl⟩ | ⟨rfl, rfl⟩ | ⟨rfl, rfl⟩ := hib <;> exact ⟨rfl, by simp⟩
  exact exec_of_causeArises (e := .nokey) hi herr ⟨hb, hkey⟩

/-- Settles O25. -/
theorem noCounterLatches : Obligations.NoCounterLatches := fun _ herr hkey hctrv =>
  exec_of_causeArises (e := .noctr) rfl herr ⟨rfl, hkey, hctrv⟩

/-- Settles O26. -/
theorem noAccumulatorLatches : Obligations.NoAccumulatorLatches := fun _ herr hkey haccv =>
  exec_of_causeArises (e := .noacc) rfl herr ⟨rfl, hkey, haccv⟩

/-- Settles O27: at index 65535 the increment has no value. -/
theorem counterWrapLatches : Obligations.CounterWrapLatches := fun s herr hkey hctrv h14 h15 =>
  exec_of_causeArises (e := .ctrwrap) rfl herr ⟨rfl, hkey, hctrv, (inc_eq_none_iff s.core.ctr).mpr ⟨h14, h15⟩⟩

/-- Settles O37. -/
theorem idleStepChangesNothing : Obligations.IdleStepChangesNothing := fun _ hp => step_idle hp

end Sys2Proof.Proofs
end

section
/-! PROOFS. The statement about reset (spec/70_reset_and_hazards.md): the reset input has the CORE perform SRESET
(R133), and SRESET's result is every field at its reset value (R90, R29). -/

namespace Sys2Proof.Proofs

open Sys2Proof Sys2Proof.Machine

/-- Settles O38: SRESET is the instruction of the reset event, and its own result (R90) lists the reset values. -/
theorem resetInputEqualsSreset : Obligations.ResetInputEqualsSreset := by
  intro s rest hp
  have hstep : step s = exec .sreset { s with pending := rest } := step_of_instr hp rfl
  obtain ⟨-, hsreset⟩ := sresetResult
  exact ⟨hstep, _, hstep.trans (hsreset _), rfl, rfl, rfl⟩

end Sys2Proof.Proofs
end
